-- ==== Sys2Proof/Word.lean ====
section
/-! DEFINITION. The word types of the FDC: bytes and binary32 patterns (00_scope.md R14 to R16). -/

namespace Sys2Proof

/-- A chip register, and one byte on the bus (00_scope.md R11). -/
abbrev Byte := BitVec 8

/-- An IEEE 754 binary32 pattern (00_scope.md R16): bit 31 the sign, bits 30:23 the exponent,
bits 22:0 the fraction. -/
abbrev F32 := BitVec 32

end Sys2Proof
end

