-- ==== Sys2Proof/Config.lean ====
section
/-! DEFINITION. What is fixed for one machine, and what the other agents are free to do.
The parameters of 00_scope.md R12 form the type `Config`; `State` carries one value of it, so a statement about
every state is a statement about every parameter choice (log 2). `Draw` is what the transport, the chip and the
time source do at one primitive; `Config.freeDraw` is the free value behind it (log 4). -/

namespace Sys2Proof

/-- The chip registers by the spec's names (10_state.md R120). -/
inductive Reg
  | cr0 | cr1 | mask | cjhf | cjlf | lthfth | lthftl | ltlfth | ltlftl | cjto
  | cjth | cjtl | ltcbh | ltcbm | ltcbl | sr
  deriving DecidableEq, Repr, Inhabited

/-- One value for each chip register. -/
structure RegTable (α : Type) where
  cr0 : α
  cr1 : α
  mask : α
  cjhf : α
  cjlf : α
  lthfth : α
  lthftl : α
  ltlfth : α
  ltlftl : α
  cjto : α
  cjth : α
  cjtl : α
  ltcbh : α
  ltcbm : α
  ltcbl : α
  sr : α
  deriving DecidableEq, Repr

/-- The thermocouple types and the two voltage gain modes (41_decoders.md R540). -/
inductive TcType
  | b | e | j | k | n | r | s | t | g8 | g32
  deriving DecidableEq, Repr, Inhabited

/-- One value for each thermocouple type. -/
structure TcTable (α : Type) where
  b : α
  e : α
  j : α
  k : α
  n : α
  r : α
  s : α
  t : α
  g8 : α
  g32 : α
  deriving DecidableEq, Repr

/-- The eight fault flags of SR (10_state.md R110, 41_decoders.md R530). -/
inductive FaultFlag
  | cjRange | tcRange | cjHigh | cjLow | tcHigh | tcLow | ovUv | openCircuit
  deriving DecidableEq, Repr, Inhabited

/-- One value for each fault flag. -/
structure FlagTable (α : Type) where
  cjRange : α
  tcRange : α
  cjHigh : α
  cjLow : α
  tcHigh : α
  tcLow : α
  ovUv : α
  openCircuit : α
  deriving DecidableEq, Repr

/-- The named parameters of 00_scope.md R12. The last three are the "chosen" values of the reference chip of
10_state.md R151. -/
structure Config where
  /-- `REG`: the address of each named register. -/
  reg : RegTable (BitVec 4)
  /-- `BIT_CMODE`, a bit position in CR0. -/
  bitCmode : Fin 8
  /-- `BIT_1SHOT`, a bit position in CR0. -/
  bitOneShot : Fin 8
  /-- `BIT_OCFAULT0`, a bit position in CR0. -/
  bitOcfault0 : Fin 8
  /-- `NF_50HZ_BIT`: the value of CR0 bit 0 that selects 50 Hz. -/
  nf50HzBit : BitVec 1
  /-- `TC_CODE`: the 4-bit code of each thermocouple type. -/
  tcCode : TcTable (BitVec 4)
  /-- `FAULT_BIT`: the bit position of each flag in SR. -/
  faultBit : FlagTable (Fin 8)
  /-- `DUMMY`: the byte sent in the data phase of a read. -/
  dummy : Byte
  /-- `POLL_MS`: the pause between two completion checks. -/
  pollMs : Nat
  /-- `TIME_WIDTH`: the width of the millisecond count. -/
  timeWidth : Nat
  /-- `CHIP_RESET`: the chip's registers at chip reset. -/
  chipReset : RegTable Byte
  /-- Reference chip: how many milliseconds a conversion takes. -/
  refMs : Nat
  /-- Reference chip: the value a conversion stores in LTCBH..LTCBL. -/
  refTc : BitVec 24
  /-- Reference chip: the value a conversion stores in CJTH, CJTL. -/
  refCj : BitVec 16
  deriving DecidableEq, Repr

/-- The conversion state the chip holds (10_state.md R140). -/
inductive Conv
  | idle
  | oneShot
  | continuous
  deriving DecidableEq, Repr, Inhabited

/-- What the chip does on its own between two exchanges (10_state.md R150, R151), and what can befall it there. -/
inductive ChipMove
  /-- The oracle, with the steps of R150: registers of CJTH to LTCBL and SR take any values (an update of another
  address does nothing); 1SHOT is cleared or not (R141); a pending one-shot conversion ends or not. -/
  | act (updates : List (BitVec 4 × Byte)) (clears ends : Bool)
  /-- A chip reset, of which the FDC is told nothing (70_reset_and_hazards.md R901, R930; log 1). -/
  | reset
  /-- The reference chip of R151 acts. -/
  | reference
  deriving DecidableEq, Repr, Inhabited

/-- What the transport answers to one exchange (40_register_access.md R401). -/
inductive Link
  /-- Every byte was exchanged: the chip supplies a read's data from its registers; the byte received under
  the address byte and the byte received under a write's data byte are the two given. -/
  | wired (first second : Byte)
  /-- This list was received, whatever the chip's registers hold. -/
  | raw (received : List Byte)
  /-- The transport signals failure. -/
  | failed
  deriving DecidableEq, Repr, Inhabited

/-- What the agents outside the FDC do at one primitive (log 4). -/
structure Draw where
  /-- How far the time count advances (for `Sleep`, beyond what was asked). -/
  ms : Nat
  /-- The chip's own move since the last primitive. -/
  chip : ChipMove
  /-- The answer to `Open()`. -/
  granted : Bool
  /-- The answer to `Exchange`. -/
  link : Link
  /-- Whether a one-shot conversion is pending after a CR0 write, where no source says so (logs 6 and 7). -/
  pends : Bool
  /-- What the addressed register holds after a write frame that failed (log 7), and after a write to a register that
  only the chip is known to update (log 5). -/
  kept : Byte
  deriving DecidableEq, Repr, Inhabited

/-- FREE VALUE (log 4): what the outside agents do at the `n`-th primitive. No body: nothing in Lean knows it. -/
opaque Config.freeDraw : Nat → Draw

end Sys2Proof
end

