-- ==== Sys2Proof/Syntax.lean ====
section
/-! DEFINITION. One constructor for each row of spec/opcode_table.json: the five framer rows
(40_register_access.md) and the thirteen host commands (30_encoding.md R310). -/

namespace Sys2Proof

/-- An instruction. Operands have the types of 30_encoding.md R310 and 40_register_access.md R410, R420, R430. -/
inductive Instr
  /-- RD8 (R411): a register address, 8 bits as passed. -/
  | rd8 (a : Byte)
  /-- RD16 (R412). -/
  | rd16 (a : Byte)
  /-- RD24 (R413). -/
  | rd24 (a : Byte)
  /-- WR8 (R420): address and data byte. -/
  | wr8 (a d : Byte)
  /-- RMW (R430): address, mask of owned bits, value for them. -/
  | rmw (a m x : Byte)
  /-- BEGIN (R600). -/
  | begin
  /-- SETMODE (R700): a 2-bit mode code. -/
  | setmode (m : BitVec 2)
  /-- GETMODE (R710). -/
  | getmode
  /-- SETTCTYPE (R610): 8 bits, of which the low nibble is used. -/
  | settctype (t : Byte)
  /-- GETTCTYPE (R620). -/
  | gettctype
  /-- READFAULT (R660). -/
  | readfault
  /-- TRIGGER (R720). -/
  | trigger
  /-- CONVDONE (R730). -/
  | convdone
  /-- READCJ (R670). -/
  | readcj
  /-- READTC (R740). -/
  | readtc
  /-- SETTCTHR (R650): two binary32 thresholds. -/
  | settcthr (flow fhigh : F32)
  /-- SETCJTHR (R640): two s8 thresholds. -/
  | setcjthr (low high : BitVec 8)
  /-- SETNF (R630): a 1-bit noise filter code. -/
  | setnf (f : BitVec 1)
  deriving DecidableEq, Repr, Inhabited

end Sys2Proof
end

