-- ==== Sys2Proof/WellFormed.lean ====
section
/-! DEFINITION. Which instructions have an encoding (30_encoding.md R330), and which parameter choices are those of
a chip the spec describes (92_eei_decisions.md D2, D3; 20_memory.md R210). -/

namespace Sys2Proof

/-- A read of `n` bytes from address `a` names registers only and stays inside 0x00 to 0x0F
(30_encoding.md R330, 20_memory.md R213). -/
def readFits (a : Byte) (n : Nat) : Bool := decide (1 ≤ n) && decide (a.toNat + n ≤ 16)

/-- The operands have an encoding: a frame's address is a register address with bit 7 clear, a read stays inside
the register space, the mode code is 0, 1 or 2 (30_encoding.md R330). RMW's address is an operand, whose bit 7 does not
count (40_register_access.md R410, R420). Every other operand value is legal (R311). -/
def Instr.wellFormed : Instr → Bool
  | .rd8 a => readFits a 1
  | .rd16 a => readFits a 2
  | .rd24 a => readFits a 3
  | .wr8 a _ => readFits a 1
  | .rmw a _ _ => readFits (a &&& 0x7F#8) 1
  | .setmode m => m != 3
  | .begin | .getmode | .settctype _ | .gettctype | .readfault | .trigger | .convdone | .readcj | .readtc
  | .settcthr _ _ | .setcjthr _ _ | .setnf _ => true

/-- The table's values, in the order of 10_state.md R120. -/
def RegTable.toList {α : Type} (t : RegTable α) : List α :=
  [t.cr0, t.cr1, t.mask, t.cjhf, t.cjlf, t.lthfth, t.lthftl, t.ltlfth, t.ltlftl, t.cjto,
   t.cjth, t.cjtl, t.ltcbh, t.ltcbm, t.ltcbl, t.sr]

/-- The parameters describe one chip: sixteen different addresses, multi-byte registers contiguous with the most
significant byte first (20_memory.md R210), CR0's named bits different from each other and from bit 0 (D3), a poll
interval of at least 1 ms, a count wide enough to show more than 250 ms, and CR0 zero at chip reset but for OCFAULT0
(10_state.md R121). -/
def Config.wellFormed (c : Config) : Bool :=
  decide c.reg.toList.Nodup
    && decide (c.reg.lthftl.toNat = c.reg.lthfth.toNat + 1)
    && decide (c.reg.ltlftl.toNat = c.reg.ltlfth.toNat + 1)
    && decide (c.reg.cjtl.toNat = c.reg.cjth.toNat + 1)
    && decide (c.reg.ltcbm.toNat = c.reg.ltcbh.toNat + 1)
    && decide (c.reg.ltcbl.toNat = c.reg.ltcbh.toNat + 2)
    && decide [c.bitCmode, c.bitOneShot, c.bitOcfault0, 0].Nodup
    && decide (1 ≤ c.pollMs) && decide (8 ≤ c.timeWidth)
    && decide (∀ i : Fin 8, i ≠ c.bitOcfault0 → c.chipReset.cr0.getLsbD i = false)

end Sys2Proof
end

