-- ==== Sys2Proof/Decode.lean ====
section
/-! DEFINITION. The two encoded interfaces of 30_encoding.md: wire frames (R300 to R303), read as R303 says, by length
and bit 7 of the first byte; and host commands (R310), a 4-bit code with operands beside it. The spec gives operands
no binary layout (91_not_in_source.md N32): the 64-bit operand field is the model's (log 11). RMW is two frames with no
encoding of its own (R340), so it is a call with operands (log 12). Decoding is total; what it rejects it rejects by
name. -/

namespace Sys2Proof

/-- What stands at the host's side of the FDC: a command word, a call of the framer written as its frame, or a call of
the read-modify-write helper with its operands (40_register_access.md R430; log 12). -/
inductive Request
  | command (op : BitVec 4) (operand : BitVec 64)
  | frame (bytes : List Byte)
  | readModifyWrite (a m x : Byte)
  deriving DecidableEq, Repr, Inhabited

/-- Why a request is no instruction (30_encoding.md R330). -/
inductive Rejection
  /-- Host command codes 0xD to 0xF. -/
  | reservedCode (op : BitVec 4)
  /-- Mode code 3. -/
  | reservedMode
  /-- A frame without an address byte. -/
  | emptyFrame
  /-- A read of other than 1, 2 or 3 bytes. -/
  | badCount (n : Nat)
  /-- A frame address outside 0x00 to 0x0F. -/
  | badAddress (a : Byte)
  /-- A read that runs past 0x0F. -/
  | pastEnd (a : Byte) (n : Nat)
  /-- A write frame of other than one data byte. -/
  | badWriteLength (n : Nat)
  deriving DecidableEq, Repr

/-- The decoder's answer. -/
inductive Decoded
  | instr (i : Instr)
  | reject (why : Rejection)
  deriving DecidableEq, Repr

/-- A read frame with address byte `a` and `n` data bytes (R301, R330). -/
def decodeRead (a : Byte) (n : Nat) : Decoded :=
  if n = 0 ∨ 3 < n then .reject (.badCount n)
  else if 15 < a.toNat then .reject (.badAddress a)
  else if 16 < a.toNat + n then .reject (.pastEnd a n)
  else match n with
    | 1 => .instr (.rd8 a)
    | 2 => .instr (.rd16 a)
    | _ => .instr (.rd24 a)

/-- A write frame with address `a` (bit 7 taken off) and these data bytes (R302, R330). -/
def decodeWrite (a : Byte) (data : List Byte) : Decoded :=
  match data with
  | [d] => if 15 < a.toNat then .reject (.badAddress a) else .instr (.wr8 a d)
  | _ => .reject (.badWriteLength data.length)

/-- A frame, told by bit 7 of its first byte and by its length (R300, R303). -/
def decodeFrame : List Byte → Decoded
  | [] => .reject .emptyFrame
  | ab :: rest =>
    if ab.getLsbD 7 then decodeWrite (ab &&& 0x7F#8) rest else decodeRead ab rest.length

/-- A read-modify-write call: its address as passed, bit 7 not counted (40_register_access.md R410, R420). -/
def decodeReadModifyWrite (a m x : Byte) : Decoded :=
  if 15 < (a &&& 0x7F#8).toNat then .reject (.badAddress (a &&& 0x7F#8)) else .instr (.rmw a m x)

/-- A host command by its code (R310), operands taken from the operand field (log 11): `m`, `t`, `f` and `low` from
its low bits, `high` from bits 15:8, `flow` from bits 31:0, `fhigh` from bits 63:32. -/
def decodeCommand (op : BitVec 4) (x : BitVec 64) : Decoded :=
  match op.toNat with
  | 0x0 => .instr .begin
  | 0x1 => if x.setWidth 2 = 3#2 then .reject .reservedMode else .instr (.setmode (x.setWidth 2))
  | 0x2 => .instr .getmode
  | 0x3 => .instr (.settctype (x.setWidth 8))
  | 0x4 => .instr .gettctype
  | 0x5 => .instr .readfault
  | 0x6 => .instr .trigger
  | 0x7 => .instr .convdone
  | 0x8 => .instr .readcj
  | 0x9 => .instr .readtc
  | 0xA => .instr (.settcthr (x.extractLsb' 0 32) (x.extractLsb' 32 32))
  | 0xB => .instr (.setcjthr (x.extractLsb' 0 8) (x.extractLsb' 8 8))
  | 0xC => .instr (.setnf (x.setWidth 1))
  | _ => .reject (.reservedCode op)

/-- The decoder, total on every request. -/
def decode : Request → Decoded
  | .command op x => decodeCommand op x
  | .frame bytes => decodeFrame bytes
  | .readModifyWrite a m x => decodeReadModifyWrite a m x

/-- The words of an instruction (R300 to R302, R310); `dummy` is the parameter `DUMMY`. -/
def encode (dummy : Byte) : Instr → Request
  | .rd8 a => .frame [a, dummy]
  | .rd16 a => .frame [a, dummy, dummy]
  | .rd24 a => .frame [a, dummy, dummy, dummy]
  | .wr8 a d => .frame [a ||| 0x80#8, d]
  | .rmw a m x => .readModifyWrite a m x
  | .begin => .command 0x0 0
  | .setmode m => .command 0x1 (m.setWidth 64)
  | .getmode => .command 0x2 0
  | .settctype t => .command 0x3 (t.setWidth 64)
  | .gettctype => .command 0x4 0
  | .readfault => .command 0x5 0
  | .trigger => .command 0x6 0
  | .convdone => .command 0x7 0
  | .readcj => .command 0x8 0
  | .readtc => .command 0x9 0
  | .settcthr flow fhigh => .command 0xA (fhigh ++ flow)
  | .setcjthr low high => .command 0xB ((high ++ low).setWidth 64)
  | .setnf f => .command 0xC (f.setWidth 64)

/-- The command code of a host command (R310); a framer row has none. -/
def Instr.code (i : Instr) : Option (BitVec 4) :=
  match encode 0 i with
  | .command op _ => some op
  | .frame _ | .readModifyWrite _ _ _ => none

/-- Byte `k` of a table word: byte 0 is the first on the bus. -/
def wordByte (w k : Nat) : Byte := BitVec.ofNat 8 (w >>> (8 * k))

/-- The request a table word stands for (log 13). One byte with a clear high nibble is a command code, operands zero;
one byte otherwise is a frame's address byte, followed by a zero byte. Five bytes are the row RMW: address, dummy,
write address, mask, value, of which the address, the mask and the value are read. Other words are a frame, sent in
order. -/
def requestOfWord (nbits w : Nat) : Request :=
  if nbits ≤ 8 then
    if (wordByte w 0).toNat < 16 then .command (BitVec.ofNat 4 w) 0 else .frame [wordByte w 0, 0]
  else if nbits = 40 then .readModifyWrite (wordByte w 0) (wordByte w 3) (wordByte w 4)
  else .frame ((List.range (nbits / 8)).map (wordByte w))

/-- The instruction the decoder reads from a table word. -/
def decodeTableWord (nbits w : Nat) : Option Instr :=
  match decode (requestOfWord nbits w) with
  | .instr i => some i
  | .reject _ => none

end Sys2Proof
end

