-- ==== Sys2Proof/Machine/Defaults.lean ====
section
/-! DEFINITION. The values the parameters of 00_scope.md R12 default to, table lookup, and the fixed timeout.
The defaults marked in the spec as general knowledge are PRESUMED (logs 2 and 3). -/

namespace Sys2Proof.Machine

/-- The address map of 10_state.md R120 (D2). PRESUMED, log 2. -/
def defaultReg : RegTable (BitVec 4) where
  cr0 := 0x0
  cr1 := 0x1
  mask := 0x2
  cjhf := 0x3
  cjlf := 0x4
  lthfth := 0x5
  lthftl := 0x6
  ltlfth := 0x7
  ltlftl := 0x8
  cjto := 0x9
  cjth := 0xA
  cjtl := 0xB
  ltcbh := 0xC
  ltcbm := 0xD
  ltcbl := 0xE
  sr := 0xF

/-- The type codes of 41_decoders.md R540 (D4). PRESUMED, log 2. -/
def defaultTcCode : TcTable (BitVec 4) where
  b := 0x0
  e := 0x1
  j := 0x2
  k := 0x3
  n := 0x4
  r := 0x5
  s := 0x6
  t := 0x7
  g8 := 0x8
  g32 := 0xC

/-- The flag positions of 41_decoders.md R530 (D5). PRESUMED, log 2. -/
def defaultFaultBit : FlagTable (Fin 8) where
  cjRange := 7
  tcRange := 6
  cjHigh := 5
  cjLow := 4
  tcHigh := 3
  tcLow := 2
  ovUv := 1
  openCircuit := 0

/-- `CHIP_RESET` (D31; 10_state.md R121 to R129). PRESUMED, log 3. -/
def defaultChipReset : RegTable Byte where
  cr0 := 0x00
  cr1 := 0x03
  mask := 0xFF
  cjhf := 0x7F
  cjlf := 0xC0
  lthfth := 0x7F
  lthftl := 0xFF
  ltlfth := 0x80
  ltlftl := 0x00
  cjto := 0x00
  cjth := 0x00
  cjtl := 0x00
  ltcbh := 0x00
  ltcbm := 0x00
  ltcbl := 0x00
  sr := 0x00

/-- The default of every parameter (00_scope.md R12; 92_eei_decisions.md D2 to D6, D14, D15, D31). PRESUMED, log 2;
the reference chip's three values are those program C1 of 95_test_vectors.md chooses (DESIGN CHOICE, log 8). -/
def defaultConfig : Config where
  reg := defaultReg
  bitCmode := 7
  bitOneShot := 6
  bitOcfault0 := 4
  nf50HzBit := 1
  tcCode := defaultTcCode
  faultBit := defaultFaultBit
  dummy := 0xFF
  pollMs := 10
  timeWidth := 32
  chipReset := defaultChipReset
  refMs := 15
  refTc := 0x019000
  refCj := 0x1900

/-- The entry of a register. -/
def regEntry {α : Type} (t : RegTable α) : Reg → α
  | .cr0 => t.cr0
  | .cr1 => t.cr1
  | .mask => t.mask
  | .cjhf => t.cjhf
  | .cjlf => t.cjlf
  | .lthfth => t.lthfth
  | .lthftl => t.lthftl
  | .ltlfth => t.ltlfth
  | .ltlftl => t.ltlftl
  | .cjto => t.cjto
  | .cjth => t.cjth
  | .cjtl => t.cjtl
  | .ltcbh => t.ltcbh
  | .ltcbm => t.ltcbm
  | .ltcbl => t.ltcbl
  | .sr => t.sr

/-- The entry of a thermocouple type. -/
def tcEntry {α : Type} (t : TcTable α) : TcType → α
  | .b => t.b
  | .e => t.e
  | .j => t.j
  | .k => t.k
  | .n => t.n
  | .r => t.r
  | .s => t.s
  | .t => t.t
  | .g8 => t.g8
  | .g32 => t.g32

/-- The entry of a fault flag. -/
def flagEntry {α : Type} (t : FlagTable α) : FaultFlag → α
  | .cjRange => t.cjRange
  | .tcRange => t.tcRange
  | .cjHigh => t.cjHigh
  | .cjLow => t.cjLow
  | .tcHigh => t.tcHigh
  | .tcLow => t.tcLow
  | .ovUv => t.ovUv
  | .openCircuit => t.openCircuit

/-- Every register, in the order of 10_state.md R120. -/
def allRegs : List Reg :=
  [.cr0, .cr1, .mask, .cjhf, .cjlf, .lthfth, .lthftl, .ltlfth, .ltlftl, .cjto,
   .cjth, .cjtl, .ltcbh, .ltcbm, .ltcbl, .sr]

/-- The address of a register, as a number (10_state.md R120). -/
def regAddr (c : Config) (r : Reg) : Nat := (regEntry c.reg r).toNat

/-- `TIMEOUT_MS` (00_scope.md R13). -/
def timeoutMs : Nat := 250

end Sys2Proof.Machine
end

