-- ==== Sys2Proof/Machine/State.lean ====
section
/-! DEFINITION. The machine's state as plain data (10_state.md), the reasons a step can stop, and the state after
reset. -/

namespace Sys2Proof.Machine

/-- ConversionMode (10_state.md R103). The mirror's `Unset` is `none`. -/
inductive Mode
  | oneShot
  | oneShotNoWait
  | continuous
  deriving DecidableEq, Repr, Inhabited

/-- A command's local values (10_state.md R102): the data bytes read so far, the poll's start time, and how many
exchanges the command has made (the index 60_exceptions.md R800 records). -/
structure Locals where
  read : List Byte
  start : Option Nat
  exchanges : Nat
  deriving DecidableEq, Repr, Inhabited

/-- The sequencer position (10_state.md R100, R102): between commands, or at primitive `step` of `cmd`. -/
inductive Seq
  | idle
  | busy (cmd : Instr) (step : Nat) (locals : Locals)
  deriving DecidableEq, Repr, Inhabited

/-- A fault of 60_exceptions.md R800 with its recorded info. Raised by `raise` only. -/
inductive FdcFault
  /-- Code 1, raised by `Guard`: the command code and operands. -/
  | illegalCommand (op : BitVec 4) (operand : BitVec 64)
  /-- Code 1, raised by the frame constructor: the frame. -/
  | illegalFrame (frame : List Byte)
  /-- Code 2, raised by `Guard`: the command code. -/
  | notInitialised (op : BitVec 4)
  /-- Code 3, raised by SETTCTHR: the operand. -/
  | operandRange (x : F32)
  /-- Code 4, raised by an exchange: the frame and its index within the command, from 1. -/
  | transportFail (frame : List Byte) (index : Nat)
  deriving DecidableEq, Repr, Inhabited

/-- A temperature delivered to the host: a binary32 value, or the one distinguished not-a-number (00_scope.md R16). -/
inductive Temp
  | value (x : F32)
  | nan
  deriving DecidableEq, Repr, Inhabited

/-- A command's typed result (30_encoding.md R310, R311). `unit` is the table's "none"; `mode` carries the mirror as it stands; `data8`, `data16` and
`data24` are what the read frames return (40_register_access.md R411 to R413). -/
inductive Result
  | unit
  | bool (b : Bool)
  | mode (m : Option Mode)
  | typeCode (n : BitVec 4)
  | status (v : Byte)
  | temperature (t : Temp)
  | data8 (v : BitVec 8)
  | data16 (v : BitVec 16)
  | data24 (v : BitVec 24)
  deriving DecidableEq, Repr, Inhabited

/-- How a command ended (60_exceptions.md R800). -/
inductive CommandOutcome
  | result (r : Result)
  | fault (f : FdcFault)
  deriving DecidableEq, Repr, Inhabited

/-- What the host side offers: a request, an FDC reset (70_reset_and_hazards.md R900), a chip reset (R901), a power
cycle (60_exceptions.md R885). -/
inductive HostInput
  | request (r : Request)
  | fdcReset
  | chipReset
  | powerCycle
  deriving DecidableEq, Repr, Inhabited

/-- A primitive an observer saw performed (00_scope.md R17). No command reads these (log 16). -/
inductive Event
  | opened (granted : Bool)
  | exchanged (sent received : List Byte)
  | failed (sent : List Byte)
  | timed (now : Nat)
  | slept (ms : Nat)
  deriving DecidableEq, Repr, Inhabited

/-- The whole machine: the FDC (10_state.md R100), the chip (R120, R140), the time source (R160), the parameters
(00_scope.md R12), the host's side, and the model's own fields (INVENTORY.md, State). -/
structure State where
  /-- `st.mode`, the mode mirror (R103). -/
  mode : Option Mode
  /-- `st.begun` (R100). -/
  begun : Bool
  /-- `st.seq` (R102). -/
  seq : Seq
  /-- `st.fault` (R100), with the info of 60_exceptions.md R800. -/
  fault : Option FdcFault
  /-- The chip's register file (R120), canonical: see `Mem.wf`. -/
  regs : List Host.Cell
  /-- The chip's conversion state (R140). -/
  conv : Conv
  /-- Milliseconds since the conversion was triggered; only the reference chip reads it (log 8). -/
  age : Nat
  /-- The time source's count (R160). -/
  now : Nat
  /-- The parameters, fixed for one machine (00_scope.md R12). -/
  cfg : Config
  /-- What the host has offered, first to be taken first. -/
  inputs : List HostInput
  /-- What the last command delivered. -/
  outcome : Option CommandOutcome
  /-- The outside agents' answers, by number (log 4). -/
  script : List Draw
  /-- How many of them have been drawn (log 4). -/
  drawn : Nat
  /-- An observer's record of the primitives performed, oldest first (log 16). -/
  wire : List Event
  deriving DecidableEq, Repr

/-- Why the machine stops. -/
inductive Fault
  /-- Raised by the admission of any instruction while a fault is recorded: the instruction has "no step", the FDC is
  stuck until FDC reset (60_exceptions.md R850). The machine's own step does not offer the instruction then, and goes on
  (log 14). Safe. -/
  | stuckUntilReset
  deriving DecidableEq, Repr

/-- Why an instruction is not run. -/
inductive Refusal
  /-- Raised by an arm of `exec` that has no meaning yet. Safe. -/
  | notModelled (mnemonic : String)
  /-- Raised by the admission of an instruction while a command runs: outside the contract, no move
  (60_exceptions.md R860). Safe. -/
  | notIdle
  /-- Raised when a state holds a sequencer position that no command leaves behind (log 20). Safe. -/
  | noSuchPosition
  deriving DecidableEq, Repr

/-- After FDC reset (10_state.md R100, 70_reset_and_hazards.md R900) and chip reset (R901), parameters at their
defaults, nothing offered and nothing drawn. -/
def State.reset : State where
  mode := none
  begun := false
  seq := .idle
  fault := none
  regs := []
  conv := .idle
  age := 0
  now := 0
  cfg := defaultConfig
  inputs := []
  outcome := none
  script := []
  drawn := 0
  wire := []

end Sys2Proof.Machine
end

