-- ==== Sys2Proof/Machine/Flags.lean ====
section
/-! DEFINITION. Masks and bit fields of CR0, CR1 and SR (41_decoders.md R501, R530, R570, R580) and the mode codes
(30_encoding.md R311). Bit positions are parameters. -/

namespace Sys2Proof.Machine

/-- The mask of one bit. -/
def bitMask (i : Fin 8) : Byte := 1#8 <<< i.val

/-- `M_CMODE` (R501). -/
def cmodeMask (c : Config) : Byte := bitMask c.bitCmode

/-- `M_1SHOT` (R501). -/
def oneShotMask (c : Config) : Byte := bitMask c.bitOneShot

/-- `M_OCFAULT0` (R501). -/
def ocfault0Mask (c : Config) : Byte := bitMask c.bitOcfault0

/-- `M_NF`: bit 0 of CR0 (R501). -/
def nfMask : Byte := 0x01#8

/-- `M_TCTYPE`: the low nibble of CR1 (R501). -/
def tcTypeMask : Byte := 0x0F#8

/-- `M_MODE`: the two bits a conversion mode owns (R570). -/
def modeMask (c : Config) : Byte := cmodeMask c ||| oneShotMask c

/-- `modeBits` (R570). -/
def modeBits (c : Config) : Mode → Byte
  | .continuous => cmodeMask c
  | .oneShot => oneShotMask c
  | .oneShotNoWait => oneShotMask c

/-- `nfBit` (R580), for noise filter code 0 = 50 Hz, 1 = 60 Hz (R311). -/
def nfBit (c : Config) (f : BitVec 1) : Byte :=
  (if f = 0 then c.nf50HzBit else 1 - c.nf50HzBit).setWidth 8

/-- The byte a read-modify-write stores: the owned bits from `x`, the others as read (40_register_access.md R430). -/
def merge (v m x : Byte) : Byte := (v &&& ~~~m) ||| (x &&& m)

/-- CR0.CMODE of a CR0 value (10_state.md R121). -/
def cmodeSet (c : Config) (v : Byte) : Bool := v &&& cmodeMask c != 0

/-- CR0.1SHOT of a CR0 value (10_state.md R111, R121). -/
def oneShotSet (c : Config) (v : Byte) : Bool := v &&& oneShotMask c != 0

/-- The mask of a fault flag in SR (R530). -/
def flagMask (c : Config) (f : FaultFlag) : Byte := bitMask (flagEntry c.faultBit f)

/-- A fault flag is set in a status value (R530). The FDC itself never asks. -/
def flagSet (c : Config) (s : Byte) (f : FaultFlag) : Bool := s &&& flagMask c f != 0

/-- The mode a mode code selects; code 3 selects none (30_encoding.md R311). -/
def modeOf (m : BitVec 2) : Option Mode :=
  match m.toNat with
  | 0 => some .oneShot
  | 1 => some .oneShotNoWait
  | 2 => some .continuous
  | _ => none

/-- The code of a mode (30_encoding.md R311). -/
def modeCode : Mode → BitVec 2
  | .oneShot => 0
  | .oneShotNoWait => 1
  | .continuous => 2

end Sys2Proof.Machine
end

