-- ==== Sys2Proof/Machine/Operands.lean ====
section
/-! DEFINITION. The pure datapath of 41_decoders.md: byte order, binary32, the two temperature decoders, the
threshold encoders and the type field. -/

namespace Sys2Proof.Machine

/-- The value of bytes received most significant first (20_memory.md R210). -/
def bigEndian (bytes : List Byte) : Nat := bytes.foldl (fun acc b => acc * 256 + b.toNat) 0

/-- One byte as a u8 (40_register_access.md R411). -/
def u8 (bytes : List Byte) : BitVec 8 := BitVec.ofNat 8 (bigEndian bytes)

/-- Two bytes as a u16 (R412). -/
def u16 (bytes : List Byte) : BitVec 16 := BitVec.ofNat 16 (bigEndian bytes)

/-- Three bytes as a u24 (R413). -/
def u24 (bytes : List Byte) : BitVec 24 := BitVec.ofNat 24 (bigEndian bytes)

/-- The sign bit of a binary32 pattern. -/
def f32Negative (x : F32) : Bool := x.getLsbD 31

/-- The exponent field. -/
def f32Exponent (x : F32) : Nat := (x.extractLsb' 23 8).toNat

/-- The significand as an integer: with the leading one of a normal number, without it for a subnormal. -/
def f32Significand (x : F32) : Nat :=
  (x.extractLsb' 0 23).toNat + if f32Exponent x = 0 then 0 else 2 ^ 23

/-- Neither infinite nor not-a-number. -/
def f32Finite (x : F32) : Bool := f32Exponent x != 255

/-- The magnitude of a finite pattern is `f32Scaled x / 2^150`. -/
def f32Scaled (x : F32) : Nat := f32Significand x * 2 ^ max (f32Exponent x) 1

/-- The rational a finite pattern denotes. -/
def f32Value (x : F32) : ℚ := (if f32Negative x then -1 else 1) * (f32Scaled x : ℚ) / 2 ^ 150

/-- `toF32(v / 2^k)` for an integer of magnitude below 2^24 (00_scope.md R16, 41_decoders.md R520): exact. -/
def toF32 (v : Int) (k : Nat) : F32 :=
  if v = 0 then 0
  else
    let e := v.natAbs.log2
    BitVec.ofNat 32
      ((if v < 0 then 2 ^ 31 else 0) + (e + 127 - k) * 2 ^ 23 + (v.natAbs * 2 ^ (23 - e) - 2 ^ 23))

/-- The value `decodeTC` shifts out: the raw value sign-extended to 32 bits, shifted right by 5 with its sign
(R500). -/
def tcUnits (raw : BitVec 24) : Int :=
  let s : BitVec 32 := raw.setWidth 32
  let s := if raw.getLsbD 23 then s ||| 0xFF000000#32 else s
  (s.sshiftRight 5).toInt

/-- `decodeTC` (R500). -/
def decodeTc (raw : BitVec 24) : F32 := toF32 (tcUnits raw) 7

/-- `decodeCJ` (R510): the raw value is two's complement (D12). -/
def decodeCj (raw : BitVec 16) : F32 := toF32 raw.toInt 8

/-- `trunc(16 * x)` of a finite pattern: toward zero (R550). -/
def trunc16 (x : F32) : Int :=
  let magnitude : Int := ((f32Scaled x / 2 ^ 146 : Nat) : Int)
  if f32Negative x then -magnitude else magnitude

/-- `encodeTCThreshold` (R550); `none` where the rule raises OperandRange. -/
def encodeTcThreshold (x : F32) : Option (BitVec 16) :=
  if f32Finite x && decide (-32768 ≤ trunc16 x) && decide (trunc16 x ≤ 32767) then
    some (BitVec.ofInt 16 (trunc16 x))
  else none

/-- `encodeCJThreshold` (R560): the pattern, unscaled. -/
def encodeCjThreshold (v : BitVec 8) : Byte := v

/-- `encodeType` (R540). -/
def encodeType (t : Byte) : BitVec 4 := t.setWidth 4

/-- `decodeType` (R540): the raw nibble, named or not. -/
def decodeType (n : BitVec 4) : BitVec 4 := n

end Sys2Proof.Machine
end

