-- ==== Sys2Proof/Machine/Ops.lean ====
section
/-! DEFINITION. The operations every command is made of: the chip's registers, the moves of the other agents, the
primitives of 00_scope.md R17, the framer (40_register_access.md), raising a fault, admission, and reset. -/

namespace Sys2Proof.Machine

/-! ### The chip's register file (20_memory.md R200) -/

/-- What an unlisted address reads as: the chip reset value of the register at it (10_state.md R131). -/
def unlisted (c : Config) (a : Nat) : Byte :=
  match allRegs.find? (fun r => regAddr c r == a) with
  | some r => regEntry c.chipReset r
  | none => 0

/-- The byte listed for an address. -/
def Mem.lookup : List Host.Cell → Nat → Option Byte
  | [], _ => none
  | (b, v) :: m, a => if a = b then some v else Mem.lookup m a

/-- The byte a register holds. -/
def Mem.read (c : Config) (m : List Host.Cell) (a : Nat) : Byte := (Mem.lookup m a).getD (unlisted c a)

/-- List a byte for an address, in address order. -/
def Mem.insert (a : Nat) (v : Byte) : List Host.Cell → List Host.Cell
  | [] => [(a, v)]
  | (b, w) :: m =>
    if a < b then (a, v) :: (b, w) :: m
    else if a = b then (a, v) :: m
    else (b, w) :: Mem.insert a v m

/-- Unlist an address. -/
def Mem.erase (a : Nat) (m : List Host.Cell) : List Host.Cell := m.filter (fun p => p.1 != a)

/-- Store a byte, keeping the canonical form. -/
def Mem.write (c : Config) (m : List Host.Cell) (a : Nat) (v : Byte) : List Host.Cell :=
  if v = unlisted c a then Mem.erase a m else Mem.insert a v m

/-- The canonical form: addresses strictly rising, all inside the register space, no entry equal to what its address
reads as unlisted. -/
def Mem.wf (c : Config) (m : List Host.Cell) : Bool :=
  decide (m.Pairwise (fun p q => p.1 < q.1)) && m.all (fun p => decide (p.1 < 16) && p.2 != unlisted c p.1)

/-- The byte a register of the chip holds in a state. -/
def State.reg (s : State) (r : Reg) : Byte := Mem.read s.cfg s.regs (regAddr s.cfg r)

/-! ### The other agents (log 4) -/

/-- The answer drawn `k` primitives from now. -/
def State.drawAt (s : State) (k : Nat) : Draw :=
  (s.script[s.drawn + k]?).getD (Config.freeDraw (s.drawn + k))

/-- The answer drawn next. -/
def State.draw (s : State) : Draw := s.drawAt 0

/-- The chip clears CR0.1SHOT (10_state.md R141). -/
def clearOneShot (c : Config) (m : List Host.Cell) : List Host.Cell :=
  Mem.write c m (regAddr c .cr0) (Mem.read c m (regAddr c .cr0) &&& ~~~(oneShotMask c))

/-- The registers the chip updates itself and no FDC command writes (10_state.md R127 to R130). -/
def chipOwned : List Reg := [.cjth, .cjtl, .ltcbh, .ltcbm, .ltcbl, .sr]

/-- An address is one of theirs. -/
def chipOwns (c : Config) (a : Nat) : Bool := chipOwned.any (fun r => regAddr c r == a)

/-- The chip stores values of its own choosing in its own registers (10_state.md R150). -/
def applyUpdates (c : Config) (updates : List (BitVec 4 × Byte)) (m : List Host.Cell) : List Host.Cell :=
  updates.foldl (fun m u => if chipOwns c u.1.toNat then Mem.write c m u.1.toNat u.2 else m) m

/-- The reference chip finishes a conversion: results stored, then 1SHOT cleared (10_state.md R151). -/
def referenceResult (c : Config) (m : List Host.Cell) : List Host.Cell :=
  let m := Mem.write c m (regAddr c .cjth) (c.refCj.extractLsb' 8 8)
  let m := Mem.write c m (regAddr c .cjtl) (c.refCj.extractLsb' 0 8)
  let m := Mem.write c m (regAddr c .ltcbh) (c.refTc.extractLsb' 16 8)
  let m := Mem.write c m (regAddr c .ltcbm) (c.refTc.extractLsb' 8 8)
  let m := Mem.write c m (regAddr c .ltcbl) (c.refTc.extractLsb' 0 8)
  clearOneShot c m

/-- What the chip does with no one-shot conversion pending, by the value of CR0: with CMODE it free-runs, without it
it idles (10_state.md R121, R140). -/
def restConv (c : Config) (v : Byte) : Conv := if cmodeSet c v then .continuous else .idle

/-- The registers after a move of the chip's own (10_state.md R150, R151, R131). -/
def chipRegs (c : Config) (m : List Host.Cell) (conv : Conv) (age : Nat) : ChipMove → List Host.Cell
  | .act updates clears _ =>
    if clears then clearOneShot c (applyUpdates c updates m) else applyUpdates c updates m
  | .reset => []
  | .reference => if conv = .oneShot ∧ c.refMs ≤ age then referenceResult c m else m

/-- A move ends a pending one-shot conversion: the oracle as it likes, the reference chip after `refMs` (R150, R151). -/
def endsConversion (c : Config) (age : Nat) : ChipMove → Bool
  | .act _ _ ends => ends
  | .reset => false
  | .reference => decide (c.refMs ≤ age)

/-- The conversion state after a move of the chip's own. All that can change it is the end of a one-shot conversion,
after which the chip idles, or free-runs if CMODE has been set meanwhile (R140), and a chip reset, after which it is
idle (70_reset_and_hazards.md R930). -/
def chipConv (c : Config) (m : List Host.Cell) (conv : Conv) (age : Nat) (move : ChipMove) : Conv :=
  if move = .reset then .idle
  else if conv = .oneShot ∧ endsConversion c age move then restConv c (Mem.read c m (regAddr c .cr0))
  else conv

/-- The next answer is taken and the chip has made its move. -/
def State.moved (s : State) : State :=
  { s with
    regs := chipRegs s.cfg s.regs s.conv s.age s.draw.chip
    conv := chipConv s.cfg s.regs s.conv s.age s.draw.chip
    drawn := s.drawn + 1 }

/-- Time passes: the count wraps at TIME_WIDTH bits (10_state.md R160). -/
def State.pass (ms : Nat) (s : State) : State :=
  { s with now := (s.now + ms) % 2 ^ s.cfg.timeWidth, age := s.age + ms }

/-- The observer notes a primitive. -/
def State.logged (e : Event) (s : State) : State := { s with wire := s.wire ++ [e] }

/-- A value of CR0 that starts a one-shot conversion when written: 1SHOT without CMODE (10_state.md R140). -/
def isTrigger (c : Config) (v : Byte) : Bool := oneShotSet c v && !cmodeSet c v

/-- Whether a pending one-shot conversion goes on when `v` is written to CR0. A write of neither 1SHOT nor CMODE aborts
none (10_state.md R142). What a write of one of them does no source says (N9, N13): the answer is `pends` (log 6), but
the reference chip's conversion completes (R151). -/
def staysPending (c : Config) (v : Byte) (d : Draw) : Bool :=
  !(oneShotSet c v || cmodeSet c v) || d.pends || d.chip == .reference

/-- The conversion state after a write of `v` to CR0 (10_state.md R140): 1SHOT without CMODE starts a one-shot
conversion; else CMODE says whether the chip free-runs or idles (R121), unless a one-shot conversion goes on. -/
def convAfterWrite (c : Config) (old : Conv) (v : Byte) (d : Draw) : Conv :=
  if (if old = .oneShot then staysPending c v d else isTrigger c v) then .oneShot else restConv c v

/-- The register a write frame addresses: bit 7 off, inside the register space. -/
def writtenReg (ab : Byte) : Option Nat :=
  if ab.getLsbD 7 && decide ((ab &&& 0x7F#8).toNat < 16) then some (ab &&& 0x7F#8).toNat else none

/-- What a register holds after a write of `v`: `v`, but for the chip's own registers, which may be read-only; no source
says what they hold then (10_state.md R130, N8), and the answer is `kept` (log 5). The reference chip stores the byte at
every address (R151). -/
def valueKept (c : Config) (d : Draw) (a : Nat) (v : Byte) : Byte :=
  if chipOwns c a = true ∧ d.chip ≠ .reference then d.kept else v

/-- A write frame's byte arrives in the chip (40_register_access.md R420); a CR0 write acts on the conversion when
chip-select is deasserted (20_memory.md R222). A read frame stores nothing. -/
def State.stored (d : Draw) (out : List Byte) (s : State) : State :=
  match out with
  | [ab, v] =>
    match writtenReg ab with
    | some a =>
      { s with
        regs := Mem.write s.cfg s.regs a (valueKept s.cfg d a v)
        conv := if a = regAddr s.cfg .cr0 then convAfterWrite s.cfg s.conv v d else s.conv
        age := if a = regAddr s.cfg .cr0 ∧ isTrigger s.cfg v then 0 else s.age }
    | none => s
  | _ => s

/-- The conversion state after a lost frame that left `v` in CR0 (log 7): as after a write of it, or, since the frame was
not whole, as after a write without its trigger. CMODE says in both whether the chip free-runs or idles (R121). -/
def convAfterLoss (c : Config) (old : Conv) (v : Byte) (d : Draw) : Conv :=
  if d.pends then convAfterWrite c old v d else if old = .oneShot then .oneShot else restConv c v

/-- A write frame failed: its register holds any value, `kept` (95_test_vectors.md B2). If it is CR0, what it does to the
conversion is `convAfterLoss`, and a value that can have started one starts its time again, which no source says (DESIGN
CHOICE, log 8). A failed read frame leaves the chip as it was (60_exceptions.md R820). -/
def State.tornBy (d : Draw) (out : List Byte) (s : State) : State :=
  match out with
  | [ab, _] =>
    match writtenReg ab with
    | some a =>
      { s with
        regs := Mem.write s.cfg s.regs a d.kept
        conv := if a = regAddr s.cfg .cr0 then convAfterLoss s.cfg s.conv d.kept d else s.conv
        age := if a = regAddr s.cfg .cr0 ∧ isTrigger s.cfg d.kept then 0 else s.age }
    | none => s
  | _ => s

/-! ### The sequencer and faults -/

/-- One primitive done (10_state.md R102). -/
def Seq.tick : Seq → Seq
  | .idle => .idle
  | .busy i k l => .busy i (k + 1) l

/-- The bytes a frame reads: those received after a read's address byte; a write reads none, both bytes received under it
are discarded (30_encoding.md R301, R302). -/
def readBytes (out received : List Byte) : List Byte :=
  match out with
  | [] => []
  | ab :: _ => if ab.getLsbD 7 then [] else received.drop 1

/-- One exchange done: the step advances, the bytes read are kept, the exchange is counted. -/
def Seq.exchanged (data : List Byte) : Seq → Seq
  | .idle => .idle
  | .busy i k l => .busy i (k + 1) { l with read := l.read ++ data, exchanges := l.exchanges + 1 }

/-- The sequencer goes to a step of its command. -/
def Seq.goto (k : Nat) : Seq → Seq
  | .idle => .idle
  | .busy i _ l => .busy i k l

/-- The poll's start time is kept (43_conversion_mode.md R740). -/
def Seq.started (t : Nat) : Seq → Seq
  | .idle => .idle
  | .busy i k l => .busy i (k + 1) { l with start := some t }

/-- How many exchanges the running command has made. -/
def Seq.exchanges : Seq → Nat
  | .idle => 0
  | .busy _ _ l => l.exchanges

/-- TAKING A FAULT (60_exceptions.md R800, R820, R871): code and info recorded and delivered, the sequencer Idle,
nothing else touched. The only way back is `fdcReset` (R872). -/
def raise (f : FdcFault) (s : State) : State :=
  { s with fault := some f, seq := .idle, outcome := some (.fault f) }

/-- The number of a fault's code (R800). -/
def faultCode : FdcFault → Nat
  | .illegalCommand _ _ => 1
  | .illegalFrame _ => 1
  | .notInitialised _ => 2
  | .operandRange _ => 3
  | .transportFail _ _ => 4

/-- FDC RESET (70_reset_and_hazards.md R900): every FDC field at its reset value; the chip, the time source and what
the host has still to offer are untouched. The new instance has delivered nothing. -/
def fdcReset (s : State) : State :=
  { s with mode := none, begun := false, seq := .idle, fault := none, outcome := none }

/-- CHIP RESET (R901): the registers at CHIP_RESET, the chip idle (R930); the FDC is not told. -/
def chipReset (s : State) : State := { s with regs := [], conv := .idle, age := 0 }

/-- POWER CYCLE (60_exceptions.md R885): nothing is kept on either side. -/
def powerCycle (s : State) : State := fdcReset (chipReset s)

/-! ### Running a command -/

/-- How far a piece of a command came: a value, a fault, or the poll's loop head with the command still running. -/
inductive Run (α : Type) where
  | done (a : α) (s : State)
  | raised (s : State)
  | waiting (s : State)

/-- The rest of a command after a piece of it; after a fault no later primitive runs (00_scope.md R17). -/
def Run.andThen {α β : Type} : Run α → (α → State → Run β) → Run β
  | .done a s, f => f a s
  | .raised s, _ => .raised s
  | .waiting s, _ => .waiting s

/-! ### Primitives (00_scope.md R17) -/

/-- The state after `Open()`. -/
def State.opened (s : State) : State :=
  { (s.moved.pass s.draw.ms).logged (.opened s.draw.granted) with seq := s.seq.tick }

/-- `Open()`. -/
def openTransport (s : State) : Run Bool := .done s.draw.granted s.opened

/-- What a fully exchanged frame brings back (30_encoding.md R301, R302): the byte under the address byte, then the
chip's registers from the frame's address upward for a read, a discarded byte for a write. -/
def wiredReply (c : Config) (m : List Host.Cell) (first second : Byte) : List Byte → List Byte
  | [] => []
  | ab :: rest =>
    first ::
      (if ab.getLsbD 7 then rest.map (fun _ => second)
       else (List.range rest.length).map (fun k => Mem.read c m ((ab &&& 0x7F#8).toNat + k)))

/-- The list the transport returns for `out` in a state, or nothing where it fails; a list of another length is a
failure (40_register_access.md R401). -/
def State.reply (s : State) (out : List Byte) : Option (List Byte) :=
  match s.draw.link with
  | .wired first second => some (wiredReply s.cfg s.moved.regs first second out)
  | .raw received => if received.length = out.length then some received else none
  | .failed => none

/-- The state after an exchange that succeeded. -/
def State.exchanged (out received : List Byte) (s : State) : State :=
  let t := ((s.moved.pass s.draw.ms).stored s.draw out).logged (.exchanged out received)
  { t with seq := s.seq.exchanged (readBytes out received) }

/-- The state in which a failed exchange raises. -/
def State.lostFrame (out : List Byte) (s : State) : State :=
  ((s.moved.pass s.draw.ms).tornBy s.draw out).logged (.failed out)

/-- `Exchange(out)` (R401, 60_exceptions.md R820). -/
def exchange (out : List Byte) (s : State) : Run (List Byte) :=
  match s.reply out with
  | some received => .done received (s.exchanged out received)
  | none => .raised (raise (.transportFail out (s.seq.exchanges + 1)) (s.lostFrame out))

/-- `Now()`: the count, TIME_WIDTH bits (10_state.md R160). -/
def State.time (s : State) : Nat := s.now % 2 ^ s.cfg.timeWidth

/-- The state after `Now()`. -/
def State.timed (s : State) : State := { s.logged (.timed s.time) with seq := s.seq.tick }

/-- `Sleep(ms)`: the count advances by at least `ms` (R160). -/
def sleep (ms : Nat) (s : State) : State :=
  { (s.moved.pass (ms + s.draw.ms)).logged (.slept ms) with seq := s.seq.tick }

/-! ### The framer (40_register_access.md) -/

/-- `ReadReg(a, n)` (R410): bit 7 of `a` cleared, an illegal frame raised before any exchange, the data bytes in the
order received. -/
def readReg (a : Byte) (n : Nat) (s : State) : Run (List Byte) :=
  let out := (a &&& 0x7F#8) :: List.replicate n s.cfg.dummy
  if readFits (a &&& 0x7F#8) n && decide (n ≤ 3) then
    (exchange out s).andThen fun received s => .done (received.drop 1) s
  else .raised (raise (.illegalFrame out) s)

/-- `WriteReg(a, d)` (R420): bit 7 of `a` set, an illegal frame raised before the exchange, the bytes received
discarded. -/
def writeReg (a d : Byte) (s : State) : Run Unit :=
  let ab := a ||| 0x80#8
  if (ab &&& 0x7F#8).toNat ≤ 0x0F then
    (exchange [ab, d] s).andThen fun _ s => .done () s
  else .raised (raise (.illegalFrame [ab, d]) s)

/-- `RMW(a, M, x)` (R430): the write is always issued, unless the read raised. -/
def rmw (a m x : Byte) (s : State) : Run Unit :=
  (readReg a 1 s).andThen fun data s => writeReg a (merge (u8 data) m x) s

/-- A register's address as a frame address. -/
def regByte (c : Config) (r : Reg) : Byte := (regEntry c.reg r).setWidth 8

/-- `MemRead(REG.r, n)`. -/
def memRead (r : Reg) (n : Nat) (s : State) : Run (List Byte) := readReg (regByte s.cfg r) n s

/-- `MemWrite(REG.r, 1, v)`. -/
def memWrite (r : Reg) (v : Byte) (s : State) : Run Unit := writeReg (regByte s.cfg r) v s

/-- `RMW(REG.r, M, x)`. -/
def rmwReg (r : Reg) (m x : Byte) (s : State) : Run Unit := rmw (regByte s.cfg r) m x s

/-! ### Admission (60_exceptions.md section 2) -/

/-- A command is accepted: the sequencer is at its first primitive, nothing delivered yet (10_state.md R102). -/
def accept (i : Instr) (s : State) : State :=
  { s with seq := .busy i 0 ⟨[], none, 0⟩, outcome := none }

/-- The fault `Guard` raises for an admitted instruction, if any: IllegalCommand for mode code 3, then NotInitialised
for a command other than BEGIN (60_exceptions.md R850, R851). The framer has no such check (40_register_access.md
R400; log 12). -/
def guardFault (i : Instr) (s : State) : Option FdcFault :=
  match i.code with
  | none => none
  | some op =>
    if i = .setmode 3 then some (.illegalCommand op 3)
    else if op ≠ 0 ∧ s.begun = false then some (.notInitialised op)
    else none

/-- A command ends: its result is delivered and the sequencer is Idle; a fault has already done both; a poll that goes
on stays Busy. -/
def finish : Run Result → State
  | .done r s => { s with seq := .idle, outcome := some (.result r) }
  | .raised s => s
  | .waiting s => s

/-- Every instruction's admission (R850, R860): no step with a fault recorded, no move while a command runs; else
`Guard`, then the body. -/
def command (i : Instr) (body : State → Run Result) (s : State) : Host.Outcome State Fault Refusal :=
  if s.fault.isSome then .fault .stuckUntilReset
  else if s.seq ≠ .idle then .refused .notIdle
  else
    match guardFault i s with
    | some f => .next (raise f s)
    | none => .next (finish (body (accept i s)))

/-- What an undecodable request raises: IllegalCommand with the command code and operands, or the frame (R800,
R830). For a read-modify-write call, which is no frame, the model takes its read frame, the one `ReadReg` would raise with
(40_register_access.md R410, R430): DEDUCED, log 18. -/
def requestFault (c : Config) : Request → FdcFault
  | .command op x => .illegalCommand op x
  | .frame bytes => .illegalFrame bytes
  | .readModifyWrite a _ _ => .illegalFrame [a &&& 0x7F#8, c.dummy]

/-- A request the decoder rejects is refused before any exchange (R830, R850). -/
def rejectRequest (r : Request) (s : State) : Host.Outcome State Fault Refusal :=
  if s.fault.isSome then .fault .stuckUntilReset
  else if s.seq ≠ .idle then .refused .notIdle
  else .next (raise (requestFault s.cfg r) s)

/-- Nothing is offered and nothing runs: the FDC waits (70_reset_and_hazards.md R902) while the chip and the time
source go on. -/
def waitForHost (s : State) : State := s.moved.pass s.draw.ms

end Sys2Proof.Machine
end

