-- ==== Sys2Proof/Machine/Frames.lean ====
section
/-! DEFINITION. The framer rows of the opcode table (40_register_access.md R411 to R413, R420, R430). -/

namespace Sys2Proof.Machine

/-- RD8 (R411). -/
def execRd8 (a : Byte) (s : State) : Host.Outcome State Fault Refusal :=
  command (.rd8 a) (fun s => (readReg a 1 s).andThen fun data s => .done (.data8 (u8 data)) s) s

/-- RD16 (R412). -/
def execRd16 (a : Byte) (s : State) : Host.Outcome State Fault Refusal :=
  command (.rd16 a) (fun s => (readReg a 2 s).andThen fun data s => .done (.data16 (u16 data)) s) s

/-- RD24 (R413). -/
def execRd24 (a : Byte) (s : State) : Host.Outcome State Fault Refusal :=
  command (.rd24 a) (fun s => (readReg a 3 s).andThen fun data s => .done (.data24 (u24 data)) s) s

/-- WR8 (R420). -/
def execWr8 (a d : Byte) (s : State) : Host.Outcome State Fault Refusal :=
  command (.wr8 a d) (fun s => (writeReg a d s).andThen fun _ s => .done .unit s) s

/-- RMW (R430). -/
def execRmw (a m x : Byte) (s : State) : Host.Outcome State Fault Refusal :=
  command (.rmw a m x) (fun s => (rmw a m x s).andThen fun _ s => .done .unit s) s

end Sys2Proof.Machine
end

