-- ==== Sys2Proof/Machine/Conversion.lean ====
section
/-! DEFINITION. The conversion-mode state machine (43_conversion_mode.md): SETMODE, GETMODE, TRIGGER, CONVDONE and
READTC with its poll. -/

namespace Sys2Proof.Machine

/-- `st.mode <- m`: the mirror's single writer (10_state.md R101), one primitive. -/
def State.setMode (m : Mode) (s : State) : State := { s with mode := some m, seq := s.seq.tick }

/-- `SetModeBody` (R700): the mirror is written when the write exchange has completed. -/
def setModeBody (m : Mode) (s : State) : Run Unit :=
  (rmwReg .cr0 (modeMask s.cfg) (modeBits s.cfg m) s).andThen fun _ s => .done () (s.setMode m)

/-- `TriggerBody` (R720): nothing in Continuous. -/
def triggerBody (s : State) : Run Unit :=
  if s.mode = some .continuous then .done () s
  else rmwReg .cr0 (modeMask s.cfg) (oneShotMask s.cfg) s

/-- `CompleteBody` (R730): true without an exchange in Continuous, else whether CR0.1SHOT reads 0. -/
def completeBody (s : State) : Run Bool :=
  if s.mode = some .continuous then .done true s
  else (memRead .cr0 1 s).andThen fun data s => .done (!oneShotSet s.cfg (u8 data)) s

/-- The step of READTC's loop head, counted in primitives (10_state.md R102): two exchanges and `Now` come before. -/
def pollHead : Nat := 3

/-- The step of READTC's last read: a check, `Now` and `Sleep` stand in the loop. -/
def tcReadStep : Nat := 6

/-- Elapsed time, modulo the count's width (R740). -/
def elapsed (c : Config) (start t : Nat) : Nat :=
  (t + (2 ^ c.timeWidth - start % 2 ^ c.timeWidth)) % 2 ^ c.timeWidth

/-- The read that ends READTC: LTCBH, LTCBM, LTCBL, decoded (R740). -/
def readTcValue (s : State) : Run Result :=
  (memRead .ltcbh 3 { s with seq := s.seq.goto tcReadStep }).andThen fun data s =>
    .done (.temperature (.value (decodeTc (u24 data)))) s

/-- At most this many completion checks are made in one step of the model: R742's bound, so only a count that wraps
round during the poll leaves a poll Busy (log 1). -/
def pollBudget (c : Config) : Nat := timeoutMs / c.pollMs + 2

/-- The poll of READTC (R740, R741): check, timeout test, sleep, back to the head. -/
def pollLoop : Nat → Nat → State → Run Result
  | 0, _, s => .waiting s
  | n + 1, start, s =>
    (completeBody s).andThen fun complete s =>
      if complete then readTcValue s
      else if timeoutMs < elapsed s.cfg start s.time then .done (.temperature .nan) s.timed
      else
        let s := sleep s.cfg.pollMs s.timed
        pollLoop n start { s with seq := s.seq.goto pollHead }

/-- `start <- Now()` and the loop (R740). -/
def startPoll (s : State) : Run Result :=
  pollLoop (pollBudget s.cfg) s.time { s.timed with seq := s.seq.started s.time }

/-- READTC's body after `Guard` (R740). -/
def readTcBody (s : State) : Run Result :=
  if s.mode = some .oneShot then (triggerBody s).andThen fun _ s => startPoll s
  else readTcValue s

/-- SETMODE (R700). Code 3 has been refused by `Guard`. -/
def execSetmode (m : BitVec 2) (s : State) : Host.Outcome State Fault Refusal :=
  command (.setmode m) (fun s =>
    match modeOf m with
    | some mode => (setModeBody mode s).andThen fun _ s => .done .unit s
    | none => .raised (raise (.illegalCommand 0x1 (m.setWidth 64)) s)) s

/-- GETMODE (R710): the mirror, no exchange (10_state.md R105). -/
def execGetmode (s : State) : Host.Outcome State Fault Refusal :=
  command .getmode (fun s => .done (.mode s.mode) s) s

/-- TRIGGER (R720). -/
def execTrigger (s : State) : Host.Outcome State Fault Refusal :=
  command .trigger (fun s => (triggerBody s).andThen fun _ s => .done .unit s) s

/-- CONVDONE (R730). -/
def execConvdone (s : State) : Host.Outcome State Fault Refusal :=
  command .convdone (fun s => (completeBody s).andThen fun b s => .done (.bool b) s) s

/-- READTC (R740). -/
def execReadtc (s : State) : Host.Outcome State Fault Refusal :=
  command .readtc readTcBody s

end Sys2Proof.Machine
end

