-- ==== Sys2Proof/Machine/Setup.lean ====
section
/-! DEFINITION. Initialisation, configuration and the direct reads (42_init_and_config.md). -/

namespace Sys2Proof.Machine

/-- `SetTypeBody` (R610): the low nibble of CR1 only. -/
def setTypeBody (t : Byte) (s : State) : Run Unit :=
  rmwReg .cr1 tcTypeMask ((encodeType t).setWidth 8) s

/-- `st.begun <- b` (R600), one primitive. -/
def State.setBegun (b : Bool) (s : State) : State := { s with begun := b, seq := s.seq.tick }

/-- BEGIN's body, one line per step of R600. -/
def beginBody (s : State) : Run Result :=
  (openTransport s).andThen fun granted s =>
    if granted then
      (memWrite .mask 0x00 s).andThen fun _ s =>
      (rmwReg .cr0 (ocfault0Mask s.cfg) (ocfault0Mask s.cfg) s).andThen fun _ s =>
      (memWrite .cjto 0x00 s).andThen fun _ s =>
      (setTypeBody ((tcEntry s.cfg.tcCode .k).setWidth 8) s).andThen fun _ s =>
      (setModeBody .oneShot s).andThen fun _ s =>
      .done (.bool true) (s.setBegun true)
    else .done (.bool false) (s.setBegun false)

/-- BEGIN (R600). -/
def execBegin (s : State) : Host.Outcome State Fault Refusal :=
  command .begin beginBody s

/-- SETTCTYPE (R610). -/
def execSettctype (t : Byte) (s : State) : Host.Outcome State Fault Refusal :=
  command (.settctype t) (fun s => (setTypeBody t s).andThen fun _ s => .done .unit s) s

/-- GETTCTYPE (R620): the raw low nibble. -/
def execGettctype (s : State) : Host.Outcome State Fault Refusal :=
  command .gettctype (fun s => (memRead .cr1 1 s).andThen fun data s =>
    .done (.typeCode (decodeType ((u8 data &&& tcTypeMask).setWidth 4))) s) s

/-- SETNF (R630). -/
def execSetnf (f : BitVec 1) (s : State) : Host.Outcome State Fault Refusal :=
  command (.setnf f) (fun s => (rmwReg .cr0 nfMask (nfBit s.cfg f) s).andThen fun _ s => .done .unit s) s

/-- SETCJTHR (R640): CJLF, then CJHF (D17). -/
def execSetcjthr (low high : BitVec 8) (s : State) : Host.Outcome State Fault Refusal :=
  command (.setcjthr low high) (fun s =>
    (memWrite .cjlf (encodeCjThreshold low) s).andThen fun _ s =>
    (memWrite .cjhf (encodeCjThreshold high) s).andThen fun _ s =>
    .done .unit s) s

/-- The four writes of SETTCTHR (R650): the high pair, then the low pair, most significant byte first (D17). -/
def writeTcThresholds (lo hi : BitVec 16) (s : State) : Run Result :=
  (memWrite .lthfth (hi.extractLsb' 8 8) s).andThen fun _ s =>
  (memWrite .lthftl (hi.extractLsb' 0 8) s).andThen fun _ s =>
  (memWrite .ltlfth (lo.extractLsb' 8 8) s).andThen fun _ s =>
  (memWrite .ltlftl (lo.extractLsb' 0 8) s).andThen fun _ s =>
  .done .unit s

/-- SETTCTHR (R650): both operands encoded before any exchange (D32); OperandRange names the first that has no
pattern (60_exceptions.md R840). -/
def execSettcthr (flow fhigh : F32) (s : State) : Host.Outcome State Fault Refusal :=
  command (.settcthr flow fhigh) (fun s =>
    match encodeTcThreshold flow with
    | none => .raised (raise (.operandRange flow) s)
    | some lo =>
      match encodeTcThreshold fhigh with
      | none => .raised (raise (.operandRange fhigh) s)
      | some hi => writeTcThresholds lo hi s) s

/-- READFAULT (R660): SR as read. -/
def execReadfault (s : State) : Host.Outcome State Fault Refusal :=
  command .readfault (fun s => (memRead .sr 1 s).andThen fun data s => .done (.status (u8 data)) s) s

/-- READCJ (R670): the mode is not looked at, nothing is triggered. -/
def execReadcj (s : State) : Host.Outcome State Fault Refusal :=
  command .readcj (fun s => (memRead .cjth 2 s).andThen fun data s =>
    .done (.temperature (.value (decodeCj (u16 data)))) s) s

end Sys2Proof.Machine
end

