-- ==== Sys2Proof/Machine/Dispatch.lean ====
section
/-! DEFINITION. One arm per instruction, each one call of its meaning. -/

namespace Sys2Proof.Machine

def exec (i : Instr) (s : State) : Host.Outcome State Fault Refusal :=
  match i with
  -- the framer (40_register_access.md)
  | .rd8 a => Sys2Proof.Machine.execRd8 a s
  | .rd16 a => Sys2Proof.Machine.execRd16 a s
  | .rd24 a => Sys2Proof.Machine.execRd24 a s
  | .wr8 a d => Sys2Proof.Machine.execWr8 a d s
  | .rmw a m x => Sys2Proof.Machine.execRmw a m x s
  -- host commands (30_encoding.md R310)
  | .begin => Sys2Proof.Machine.execBegin s
  | .setmode m => Sys2Proof.Machine.execSetmode m s
  | .getmode => Sys2Proof.Machine.execGetmode s
  | .settctype t => Sys2Proof.Machine.execSettctype t s
  | .gettctype => Sys2Proof.Machine.execGettctype s
  | .readfault => Sys2Proof.Machine.execReadfault s
  | .trigger => Sys2Proof.Machine.execTrigger s
  | .convdone => Sys2Proof.Machine.execConvdone s
  | .readcj => Sys2Proof.Machine.execReadcj s
  | .readtc => Sys2Proof.Machine.execReadtc s
  | .settcthr flow fhigh => Sys2Proof.Machine.execSettcthr flow fhigh s
  | .setcjthr low high => Sys2Proof.Machine.execSetcjthr low high s
  | .setnf f => Sys2Proof.Machine.execSetnf f s

end Sys2Proof.Machine
end

