-- ==== Sys2Proof/Machine/Sequencer.lean ====
section
/-! DEFINITION. What one step of the machine does: take a request, go on with a poll, or wait (10_state.md R102,
60_exceptions.md R860). -/

namespace Sys2Proof.Machine

/-- A running command goes on from its sequencer position. Only READTC's poll is ever left running (log 1), at its
loop head; no other position occurs (log 20). -/
def resume (s : State) : Host.Outcome State Fault Refusal :=
  if s.fault.isSome then .fault .stuckUntilReset
  else
    match s.seq with
    | .busy .readtc step l =>
      match l.start with
      | some start =>
        if step = pollHead then .next (finish (pollLoop (pollBudget s.cfg) start s)) else .refused .noSuchPosition
      | none => .refused .noSuchPosition
    | _ => .refused .noSuchPosition

/-- A request is taken: decoded and run, or refused (30_encoding.md R330, 60_exceptions.md R830). -/
def takeRequest (r : Request) (s : State) : Host.Outcome State Fault Refusal :=
  match decode r with
  | .instr i => exec i s
  | .reject _ => rejectRequest r s

/-- One step. A reset of either side can come at any time; a request is taken only when the FDC is Idle (R860), and a
request offered to an FDC with a fault recorded has no step: nothing is done for it, and a reset offered after it is
taken in its turn (R850, 95_test_vectors.md C6; log 14). -/
def nextStep (s : State) : Host.Outcome State Fault Refusal :=
  match s.inputs with
  | .fdcReset :: rest => .next (fdcReset { s with inputs := rest })
  | .chipReset :: rest => .next (chipReset { s with inputs := rest })
  | .powerCycle :: rest => .next (powerCycle { s with inputs := rest })
  | .request r :: rest =>
    if s.fault.isSome then .next { s with inputs := rest }
    else if s.seq = .idle then takeRequest r { s with inputs := rest }
    else resume s
  | [] => if s.seq = .idle then .next (waitForHost s) else resume s

/-- A request put where the next step takes it, the FDC Idle (log 13). -/
def offer (r : Request) (s : State) : State :=
  { s with inputs := .request r :: s.inputs, seq := .idle }

end Sys2Proof.Machine
end

