-- ==== Sys2Proof/Machine/Step.lean ====
section
/-! DEFINITION. The machine's step, and an instruction placed where the step takes its next one. -/

namespace Sys2Proof.Machine

/-- One step of the machine. -/
def step (s : State) : Host.Outcome State Fault Refusal := nextStep s

/-- The state whose next step runs the instruction a table word stands for: the host offers it (log 13). -/
def State.withFetchWord (s : State) (nbits w : Nat) : State := offer (requestOfWord nbits w) s

end Sys2Proof.Machine
end

