-- ==== Sys2Proof/Safety.lean ====
section
/-! DEFINITION. The terms the statements are made in: when the FDC takes a command, what the transport and the chip
are assumed to do, which registers a command writes, and the invariants. -/

namespace Sys2Proof.Machine

/-- The FDC takes a request: nothing recorded, nothing running (60_exceptions.md R850, R860). -/
def Ready (s : State) : Prop := s.fault = none ∧ s.seq = .idle

/-- The FDC takes every host command: a BEGIN has succeeded as well (R850). -/
def Operational (s : State) : Prop := s.fault = none ∧ s.seq = .idle ∧ s.begun = true

/-- A host command, and not a framer row. -/
def isCommand (i : Instr) : Bool := i.code.isSome

/-! ### What the other agents are assumed to do -/

/-- The transport exchanges a frame of `n` bytes (40_register_access.md R401). -/
def answers (d : Draw) (n : Nat) : Bool :=
  match d.link with
  | .wired _ _ => true
  | .raw received => received.length == n
  | .failed => false

/-- The transport exchanges frames of these lengths, one after the other, from the `k`-th next answer on. -/
def State.answersFrom (s : State) (k : Nat) : List Nat → Bool
  | [] => true
  | n :: rest => answers (s.drawAt k) n && s.answersFrom (k + 1) rest

/-- A frame's data comes from the chip's registers. -/
def wired (d : Draw) : Bool :=
  match d.link with
  | .wired _ _ => true
  | _ => false

/-- The chip makes no move of its own. -/
def quiet (d : Draw) : Bool :=
  match d.chip with
  | .act [] false false => true
  | _ => false

/-- The chip is not reset meanwhile. -/
def noReset (d : Draw) : Bool := d.chip != .reset

/-- The chip is not reset meanwhile, and a reply comes from its registers. -/
def lawful (d : Draw) : Bool :=
  noReset d && (match d.link with
    | .raw _ => false
    | _ => true)

/-- The answers one step drew, the first `t.drawn - s.drawn` of them, all have a property. -/
def AllDrawn (s t : State) (p : Draw → Bool) : Prop := ∀ k, s.drawn + k < t.drawn → p (s.drawAt k) = true

/-- The thermocouple value the chip's registers hold (10_state.md R128). -/
def State.ltcb (s : State) : BitVec 24 := u24 [s.reg .ltcbh, s.reg .ltcbm, s.reg .ltcbl]

/-- The cold-junction value the chip's registers hold (10_state.md R127). -/
def State.cjt (s : State) : BitVec 16 := u16 [s.reg .cjth, s.reg .cjtl]

/-- `CHIP_RESULT_VALID` (43_conversion_mode.md R760), a premise about the chip and no rule of the FDC, with the results
`tc` and `cj` of a conversion that has completed: stated of a state in which a completion test has just read
1SHOT = 0, or in which the mode needs none. -/
structure ChipResultValid (s : State) (tc : BitVec 24) (cj : BitVec 16) : Prop where
  /-- (a): no one-shot conversion is still running; (c): in Continuous the chip free-runs. -/
  finished : s.conv = if s.mode = some .continuous then .continuous else .idle
  /-- (a), (c): LTCBH to LTCBL hold the conversion's result. -/
  tcHeld : s.ltcb = tc
  /-- (a), (c): CJTH and CJTL hold the conversion's result. -/
  cjHeld : s.cjt = cj
  /-- (b): an RD24 of LTCB returns those bytes as one value. -/
  tcRead : ∃ b, s.reply [regByte s.cfg .ltcbh, s.cfg.dummy, s.cfg.dummy, s.cfg.dummy]
    = some [b, tc.extractLsb' 16 8, tc.extractLsb' 8 8, tc.extractLsb' 0 8]
  /-- (b): an RD16 of CJT returns those bytes as one value. -/
  cjRead : ∃ b, s.reply [regByte s.cfg .cjth, s.cfg.dummy, s.cfg.dummy]
    = some [b, cj.extractLsb' 8 8, cj.extractLsb' 0 8]

/-! ### How a command ends -/

/-- The command ended with this result (60_exceptions.md R800): delivered, no fault, the sequencer Idle; the
parameters, what the host has still to offer and the other agents' answers are as before. -/
def Delivered (s t : State) (r : Result) : Prop :=
  t.outcome = some (.result r) ∧ t.fault = none ∧ t.seq = .idle ∧
    t.cfg = s.cfg ∧ t.inputs = s.inputs ∧ t.script = s.script

/-- The mirror and `begun` are as before. -/
def SameControl (s t : State) : Prop := t.mode = s.mode ∧ t.begun = s.begun

/-- The chip, the time source and the wire are as before: no primitive of theirs was performed. -/
def Untouched (s t : State) : Prop :=
  t.regs = s.regs ∧ t.conv = s.conv ∧ t.age = s.age ∧ t.now = s.now ∧ t.drawn = s.drawn ∧ t.wire = s.wire

/-- The read-modify-write of the register at address byte `a`, as its two frames (40_register_access.md R430): the
first reads `v`, the second, begun in `u`, writes `merge v m x`. -/
def RmwFrames (s u t : State) (a m x v : Byte) : Prop :=
  ∃ b0 c0 c1, s.reply [a, s.cfg.dummy] = some [b0, v] ∧ u = s.exchanged [a, s.cfg.dummy] [b0, v] ∧
    t.wire = s.wire ++ [.exchanged [a, s.cfg.dummy] [b0, v], .exchanged [a ||| 0x80#8, merge v m x] [c0, c1]]

/-- These frames exchanged one after the other, each with what it received. -/
def State.sent (frames : List (List Byte × List Byte)) (s : State) : State :=
  frames.foldl (fun s f => s.exchanged f.1 f.2) s

/-- What a write of `v` to CR0, its frame begun in `u`, does to the chip's conversion (10_state.md R121, R140, 20_memory.md
R222, 70_reset_and_hazards.md R914). With no one-shot conversion pending, 1SHOT without CMODE, and nothing else, starts
one; else the chip free-runs with CMODE and idles without it. A pending one goes on when neither is written (R142);
otherwise it goes on or not, as no source says (log 6). -/
structure ActsOnConversion (u t : State) (v : Byte) : Prop where
  starts : u.moved.conv ≠ .oneShot → t.conv = if isTrigger u.cfg v then .oneShot else restConv u.cfg v
  goesOn : u.moved.conv = .oneShot → cmodeSet u.cfg v = false → oneShotSet u.cfg v = false → t.conv = .oneShot
  openCase : u.moved.conv = .oneShot → t.conv = .oneShot ∨ t.conv = restConv u.cfg v

/-- The poll of READTC went on past this event, its start time being `start`: a completion check that read 1SHOT = 1, a
reading of the time that showed no more than 250 ms, or the sleep of POLL_MS (43_conversion_mode.md R740, R741). -/
def PollWentOn (c : Config) (start : Nat) (e : Event) : Prop :=
  (∃ b v, e = .exchanged [regByte c .cr0, c.dummy] [b, v] ∧ oneShotSet c v = true) ∨
  (∃ now, e = .timed now ∧ elapsed c start now ≤ timeoutMs) ∨
  e = .slept c.pollMs

/-- The chip after one pass of READTC's loop: a completion check that received `received`, the time read, the sleep
(43_conversion_mode.md R740). -/
def State.pollPass (received : List Byte) (s : State) : State :=
  sleep s.cfg.pollMs (s.exchanged [regByte s.cfg .cr0, s.cfg.dummy] received).timed

/-- The poll of READTC, its start time being `start`, goes on `n` times from one loop head to another: each check reads
1SHOT = 1, within 250 ms (R740, R741). -/
inductive PollReaches (start : Nat) : Nat → State → State → Prop
  | here (s : State) : PollReaches start 0 s s
  | again {n : Nat} {s u : State} {b v : Byte} (reply : s.reply [regByte s.cfg .cr0, s.cfg.dummy] = some [b, v])
      (pending : oneShotSet s.cfg v = true)
      (inTime : elapsed s.cfg start (s.exchanged [regByte s.cfg .cr0, s.cfg.dummy] [b, v]).time ≤ timeoutMs)
      (rest : PollReaches start n (s.pollPass [b, v]) u) : PollReaches start (n + 1) s u

/-- The poll of READTC sent these events after its start time and ended in NaN: the last of them is a check that read
1SHOT = 1, followed by a reading of the time that showed more than 250 ms (R741, R743). -/
def PolledToTimeout (c : Config) (start : Nat) (events : List Event) : Prop :=
  ∃ before b v stop,
    events = before ++ [.exchanged [regByte c .cr0, c.dummy] [b, v], .timed stop] ∧ oneShotSet c v = true ∧
      timeoutMs < elapsed c start stop ∧ ∀ e ∈ before, PollWentOn c start e

/-- The poll of READTC sent these events after its start time and ended in the value `x`: the first check to read
1SHOT = 0, and the read of LTCBH to LTCBL that `x` is decoded from (R740, R741). -/
def PolledToValue (c : Config) (start : Nat) (events : List Event) (x : F32) : Prop :=
  ∃ before b v e0 e1 e2 e3,
    events = before ++ [.exchanged [regByte c .cr0, c.dummy] [b, v],
      .exchanged [regByte c .ltcbh, c.dummy, c.dummy, c.dummy] [e0, e1, e2, e3]] ∧
      oneShotSet c v = false ∧ x = decodeTc (e1 ++ e2 ++ e3) ∧ ∀ e ∈ before, PollWentOn c start e

/-- The lengths of the exchanges an instruction makes when all are answered, in a state that admits it; of READTC's poll,
those of the trigger and the first check. The transport must have opened for BEGIN's. -/
def exchangeLengths (i : Instr) (s : State) : List Nat :=
  match i with
  | .rd8 a => if readFits (a &&& 0x7F#8) 1 then [2] else []
  | .rd16 a => if readFits (a &&& 0x7F#8) 2 then [3] else []
  | .rd24 a => if readFits (a &&& 0x7F#8) 3 then [4] else []
  | .wr8 a _ => if readFits (a &&& 0x7F#8) 1 then [2] else []
  | .rmw a _ _ => if readFits (a &&& 0x7F#8) 1 then [2, 2] else []
  | .begin => if s.draw.granted then [2, 2, 2, 2, 2, 2, 2, 2] else []
  | .trigger => if s.mode = some .continuous then [] else [2, 2]
  | .convdone => if s.mode = some .continuous then [] else [2]
  | .readtc => if s.mode = some .oneShot then [2, 2, 2] else [4]
  | .settcthr flow fhigh =>
    if (encodeTcThreshold flow).isSome && (encodeTcThreshold fhigh).isSome then [2, 2, 2, 2] else []
  | .readcj => [3]
  | .gettctype | .readfault => [2]
  | .setmode _ | .settctype _ | .setcjthr _ _ | .setnf _ => [2, 2]
  | .getmode => []

/-- How many answers an instruction draws before its first exchange: BEGIN's `Open`. -/
def drawnBefore (i : Instr) : Nat := if i = .begin then 1 else 0

/-- A primitive for which an answer is drawn (log 4). -/
def Event.draws : Event → Bool
  | .timed _ => false
  | _ => true

/-! ### What a command writes -/

/-- The registers an instruction writes, in a state: the addresses of its write frames. -/
def storedTo (i : Instr) (s : State) : List Nat :=
  match i with
  | .wr8 a _ => [(a &&& 0x7F#8).toNat]
  | .rmw a _ _ => [(a &&& 0x7F#8).toNat]
  | .begin => [regAddr s.cfg .mask, regAddr s.cfg .cr0, regAddr s.cfg .cjto, regAddr s.cfg .cr1]
  | .setmode _ => [regAddr s.cfg .cr0]
  | .settctype _ => [regAddr s.cfg .cr1]
  | .trigger => if s.mode = some .continuous then [] else [regAddr s.cfg .cr0]
  | .readtc => if s.mode = some .oneShot then [regAddr s.cfg .cr0] else []
  | .settcthr _ _ =>
    [regAddr s.cfg .lthfth, regAddr s.cfg .lthftl, regAddr s.cfg .ltlfth, regAddr s.cfg .ltlftl]
  | .setcjthr _ _ => [regAddr s.cfg .cjlf, regAddr s.cfg .cjhf]
  | .setnf _ => [regAddr s.cfg .cr0]
  | .rd8 _ | .rd16 _ | .rd24 _ | .getmode | .gettctype | .readfault | .convdone | .readcj => []

/-- A frame of 30_encoding.md R300 to R302 that R330 does not refuse. -/
def legalFrame (out : List Byte) : Bool :=
  match out with
  | [] => false
  | ab :: rest =>
    if ab.getLsbD 7 then decide (rest.length = 1) && decide ((ab &&& 0x7F#8).toNat < 16)
    else decide (1 ≤ rest.length) && decide (rest.length ≤ 3) && decide (ab.toNat + rest.length ≤ 16)

/-- The frame an event sent. -/
def Event.frame : Event → Option (List Byte)
  | .exchanged out _ => some out
  | .failed out => some out
  | _ => none

/-! ### Invariants -/

/-- Every state a run reaches: the register file is canonical, the count has TIME_WIDTH bits, `begun` comes with a mode,
a recorded fault comes with an Idle sequencer, only READTC's poll is left running, at its loop head, with nothing
delivered yet (logs 1 and 20), and a chip with no one-shot conversion pending free-runs exactly when CR0.CMODE is set
(10_state.md R121, R140). -/
structure StateInv (s : State) : Prop where
  regs : Mem.wf s.cfg s.regs = true
  time : s.now < 2 ^ s.cfg.timeWidth
  begun : s.begun = true → s.mode.isSome = true
  fault : s.fault.isSome = true → s.seq = .idle
  seq : s.seq = .idle ∨
    s.mode = some .oneShot ∧ s.begun = true ∧ s.outcome = none ∧
      ∃ l start, s.seq = .busy .readtc pollHead l ∧ l.start = some start
  conv : s.cfg.wellFormed = true → s.conv ≠ .oneShot → s.conv = restConv s.cfg (s.reg .cr0)

/-- The fault recorded is the failure of a write of CR0, after which CR0 may hold any value (log 7). -/
def LostCr0Write (s : State) : Prop :=
  ∃ v k, s.fault = some (.transportFail [regByte s.cfg .cr0 ||| 0x80#8, v] k)

/-- The mirror invariant (10_state.md R104): CR0.CMODE says whether the mirror is Continuous, but after a write of CR0
that failed. -/
def Mirror (s : State) : Prop :=
  ¬ LostCr0Write s → ∀ m, s.mode = some m → (cmodeSet s.cfg (s.reg .cr0) = true ↔ m = .continuous)

/-- The next step gives no agent but the FDC's host commands a way to write CR0: no chip reset, no framer call
(10_state.md R104's proviso). -/
def FdcOnly (s : State) : Prop :=
  match s.inputs with
  | .chipReset :: _ => False
  | .request (.frame _) :: _ => False
  | .request (.readModifyWrite _ _ _) :: _ => False
  | _ => True

end Sys2Proof.Machine
end

