-- ==== Sys2Proof/Certificates/Slice0/Obligations.lean ====
section
/-! DEFINITION. The statements about the FDC, from the numbered rules of spec/. Every one holds for every parameter
choice (00_scope.md R12), since the parameters are a field of State (log 2), and for every conduct of the transport,
the chip and the time source (log 4), unless it names a premise about them. -/

open Sys2Proof Sys2Proof.Machine

/-! ### Reset and steps -/

/-- The invariant of `StepKeepsInvariant` holds after reset (that the chip is idle then is log 6). -/
def Obligations.ResetHasInvariant : Prop := StateInv State.reset

/-- R900, R100: FDC reset sets the four FDC fields; the chip, the time source and the parameters stay (log 22). -/
def Obligations.FdcResetRestoresResetValues : Prop :=
  (State.reset.mode = none ∧ State.reset.begun = false ∧ State.reset.seq = .idle ∧ State.reset.fault = none) ∧
  ∀ (s : State) rest, s.inputs = .fdcReset :: rest →
    ∃ t, step s = .next t ∧ t.mode = none ∧ t.begun = false ∧ t.seq = .idle ∧ t.fault = none ∧
      Untouched s t ∧ t.cfg = s.cfg ∧ t.inputs = rest

/-- R901, R131: at chip reset every register holds its CHIP_RESET value, and the chip is idle (R930; log 6); the FDC is not
told. -/
def Obligations.ChipResetRestoresRegisters : Prop :=
  ∀ (s : State) rest, s.inputs = .chipReset :: rest → s.cfg.wellFormed = true →
    ∃ t, step s = .next t ∧ (∀ r, t.reg r = regEntry s.cfg.chipReset r) ∧ t.conv = .idle ∧
      SameControl s t ∧ t.seq = s.seq ∧ t.fault = s.fault ∧ t.outcome = s.outcome ∧ t.cfg = s.cfg ∧ t.inputs = rest

/-- R885: nothing is kept across a power cycle, which is an entry of the host's queue (log 22): the FDC's fields, the
outcome and the chip's registers are as after reset, and the chip is idle (R930; log 6). -/
def Obligations.PowerCycleKeepsNothing : Prop :=
  ∀ (s : State) rest, s.inputs = .powerCycle :: rest → s.cfg.wellFormed = true →
    ∃ t, step s = .next t ∧ t.mode = none ∧ t.begun = false ∧ t.seq = .idle ∧ t.fault = none ∧
      t.outcome = none ∧ (∀ r, t.reg r = regEntry s.cfg.chipReset r) ∧ t.conv = .idle ∧ t.cfg = s.cfg ∧ t.inputs = rest

/-- A step with a request offered to a ready FDC runs the instruction the request decodes to (R310, R860), in the state from
which the request has been taken. That a host's queue hands its first entry to the step is log 13, that a frame or a
read-modify-write call is a request is log 12, and that one step is the whole command is log 1: the model's choices. -/
def Obligations.StepRunsDecodedInstruction : Prop :=
  ∀ (s : State) r rest (i : Instr), s.inputs = .request r :: rest → Ready s → decode r = .instr i →
    step s = exec i { s with inputs := rest }

/-- R850: with a fault recorded the requests offered have no step; each is taken from the queue with nothing done for it,
so that what is offered behind them, an FDC reset for one, comes to its turn (95_test_vectors.md C6; log 14). -/
def Obligations.RequestsAfterFaultHaveNoStep : Prop :=
  ∀ (s : State) f (requests : List Request) rest, s.fault = some f → s.inputs = requests.map .request ++ rest →
    Host.Core.run core requests.length s = .next { s with inputs := rest }

/-- R860: a request offered while a command runs has no move: `exec` of any instruction refuses it (log 14), and a poll that
was left running (logs 1 and 20) goes on as if nothing were offered, the offers staying in the queue. -/
def Obligations.RequestWhileBusyIsNotTaken : Prop :=
  (∀ (i : Instr) (s : State), s.fault = none → s.seq ≠ .idle → exec i s = .refused .notIdle) ∧
  (∀ (s : State) r rest l start, s.fault = none → s.inputs = .request r :: rest → s.seq = .busy .readtc pollHead l →
    l.start = some start →
    ∃ t, step { s with inputs := [] } = .next t ∧ step s = .next { t with inputs := s.inputs })

/-- R330, R830, R850: a request the decoder rejects raises IllegalCommand with the request as its info, before and after
BEGIN, and nothing else happens; a framer call is such a request too (log 12), a read-modify-write call's info being its
read frame (R410, R430; log 18). -/
def Obligations.UndecodableRequestIsIllegal : Prop :=
  ∀ (s : State) r rest why, s.inputs = .request r :: rest → Ready s → decode r = .reject why →
    ∃ t f, step s = .next t ∧ t.fault = some f ∧ t.outcome = some (.fault f) ∧ t.seq = .idle ∧ faultCode f = 1 ∧
      (∀ op x, r = .command op x → f = .illegalCommand op x) ∧ (∀ bytes, r = .frame bytes → f = .illegalFrame bytes) ∧
      (∀ a m x, r = .readModifyWrite a m x → f = .illegalFrame [a &&& 0x7F#8, s.cfg.dummy]) ∧
      SameControl s t ∧ Untouched s t ∧ t.cfg = s.cfg ∧ t.inputs = rest

/-- R902: with nothing offered the FDC waits; the chip and the time source may go on (log 15). -/
def Obligations.IdleFdcWaits : Prop :=
  ∀ (s : State), s.inputs = [] → s.seq = .idle →
    ∃ t, step s = .next t ∧ SameControl s t ∧ t.seq = .idle ∧ t.fault = s.fault ∧ t.outcome = s.outcome ∧
      t.wire = s.wire ∧ t.cfg = s.cfg ∧ t.inputs = []

/-! ### Encoding -/

/-- Words written out from 30_encoding.md R300 to R302 and R310 decode to what they stand for (the operand layout of
SETTCTHR and SETCJTHR is log 11's). -/
def Obligations.TableWordsDecode : Prop :=
  decode (.frame [0x0F, 0xFF]) = .instr (.rd8 0x0F) ∧
  decode (.frame [0x0A, 0xFF, 0xFF]) = .instr (.rd16 0x0A) ∧
  decode (.frame [0x0C, 0xFF, 0xFF, 0xFF]) = .instr (.rd24 0x0C) ∧
  decode (.frame [0x80, 0x50]) = .instr (.wr8 0x00 0x50) ∧
  decode (.command 0x1 2) = .instr (.setmode 2) ∧
  decode (.command 0x9 0) = .instr .readtc ∧
  decode (.command 0xA 0x42AA0000C1200000) = .instr (.settcthr 0xC1200000 0x42AA0000) ∧
  decode (.command 0xB 0x46EC) = .instr (.setcjthr 0xEC 0x46)

/-- Decoding what the encoder writes gives the instruction back, for every instruction with an encoding and every
operand, whatever the dummy byte (R300 to R302, R310 to R312; the operand layout of commands is log 11's, the
read-modify-write call log 12's). -/
def Obligations.DecodeOfEncode : Prop :=
  ∀ dummy i, i.wellFormed = true → decode (encode dummy i) = .instr i

/-- R330, R303: a frame decodes exactly when it is a legal one. -/
def Obligations.FrameDecodesExactlyWhenLegal : Prop :=
  ∀ bytes : List Byte, (∃ i, decode (.frame bytes) = .instr i) ↔ legalFrame bytes = true

/-! ### Admission and faults -/

/-- R850, R820, R872: with a fault recorded no instruction has a step. -/
def Obligations.RecordedFaultStopsEveryInstruction : Prop :=
  ∀ (i : Instr) (s : State), s.fault.isSome = true → exec i s = .fault .stuckUntilReset

/-- R900: a recorded fault stays through any number of steps in which the host offers no FDC reset and no power cycle. -/
def Obligations.FaultClearedOnlyByReset : Prop :=
  ∀ (n : Nat) (s : State) (t : State) f, s.fault = some f → HostInput.fdcReset ∉ s.inputs → HostInput.powerCycle ∉ s.inputs →
    Host.Core.run core n s = .next t → t.fault = some f

/-- R850, R851: before a successful BEGIN every other host command raises NotInitialised, and nothing else happens;
mode code 3 is refused first. -/
def Obligations.NotInitialisedBeforeBegin : Prop :=
  ∀ (i : Instr) (s : State) op, Ready s → s.begun = false → i.code = some op → i ≠ .begin → i ≠ .setmode 3 →
    ∃ t, exec i s = .next t ∧ t.fault = some (.notInitialised op) ∧ t.outcome = some (.fault (.notInitialised op)) ∧
      t.seq = .idle ∧ SameControl s t ∧ Untouched s t ∧ t.cfg = s.cfg ∧ t.inputs = s.inputs

/-- R311, R850: mode code 3 raises IllegalCommand in every state that takes a command, and nothing else happens. -/
def Obligations.ModeCodeThreeIsIllegal : Prop :=
  ∀ (s : State), Ready s →
    ∃ t, exec (.setmode 3) s = .next t ∧ t.fault = some (.illegalCommand 0x1 3) ∧
      t.outcome = some (.fault (.illegalCommand 0x1 3)) ∧ t.seq = .idle ∧ SameControl s t ∧ Untouched s t ∧
      t.cfg = s.cfg ∧ t.inputs = s.inputs

/-- R410, R420, R330: a framer call whose frame would be illegal raises IllegalCommand with that frame and issues no
exchange; bit 7 of the address as passed does not count. No BEGIN is asked for (log 12), and RMW's frame is its read frame
(log 18). -/
def Obligations.IllegalFramesRaiseBeforeExchange : Prop :=
  ∀ (s : State) a d m x, Ready s →
    let raises := fun i frame => ∃ t, exec i s = .next t ∧ t.fault = some (.illegalFrame frame) ∧
      t.outcome = some (.fault (.illegalFrame frame)) ∧ t.seq = .idle ∧ SameControl s t ∧ Untouched s t
    (16 ≤ (a &&& 0x7F#8).toNat → raises (.rd8 a) [a &&& 0x7F#8, s.cfg.dummy]) ∧
    (15 ≤ (a &&& 0x7F#8).toNat → raises (.rd16 a) [a &&& 0x7F#8, s.cfg.dummy, s.cfg.dummy]) ∧
    (14 ≤ (a &&& 0x7F#8).toNat → raises (.rd24 a) [a &&& 0x7F#8, s.cfg.dummy, s.cfg.dummy, s.cfg.dummy]) ∧
    (16 ≤ (a &&& 0x7F#8).toNat → raises (.wr8 a d) [a ||| 0x80#8, d]) ∧
    (16 ≤ (a &&& 0x7F#8).toNat → raises (.rmw a m x) [a &&& 0x7F#8, s.cfg.dummy])

/-- R820, R871, R800: a transport failure ends the command at its exchange: the failed frame is the last thing on the
wire, the recorded index counts the exchanges before it and itself (log 17), nothing failed before it, and the mirror
and `begun` are as they were. -/
def Obligations.TransportFailEndsCommand : Prop :=
  ∀ (i : Instr) (s : State) (t : State) out k, exec i s = .next t → t.fault = some (.transportFail out k) →
    SameControl s t ∧ t.seq = .idle ∧ t.outcome = some (.fault (.transportFail out k)) ∧
      ∃ before, t.wire = s.wire ++ before ++ [.failed out] ∧
        (before.filterMap Event.frame).length + 1 = k ∧ ∀ frame, Event.failed frame ∉ before

/-- R820, R800, R401: the converse. In every step, and in every instruction, each frame is exchanged or lost as the
transport answers; a lost one raises TransportFail with the frame and its index (log 17), and is the last thing done. -/
def Obligations.LostFrameRaisesTransportFail : Prop :=
  ∀ (s : State) (t : State), (step s = .next t ∨ ∃ i, exec i s = .next t) →
    ∃ new, t.wire = s.wire ++ new ∧ ∀ before e later out, new = before ++ e :: later → e.frame = some out →
      let d := s.drawAt (before.filter Event.draws).length
      (answers d out.length = true → ∃ received, e = .exchanged out received) ∧
      (answers d out.length = false → e = .failed out ∧ later = [] ∧
        t.fault = some (.transportFail out (s.seq.exchanges + (before.filterMap Event.frame).length + 1)))

/-- R820, R800: whichever of an instruction's exchanges fails, the others before it having been answered, the instruction
ends there in TransportFail with that frame and its index (log 17), the mirror and `begun` as they were. Of READTC's poll
the trigger's two exchanges and the first check are meant; `LostFrameRaisesTransportFail` covers the others. A BEGIN is
asked of host commands only (log 12). -/
def Obligations.EachExchangeMayFail : Prop :=
  ∀ (i : Instr) (s : State) k n, Ready s → s.cfg.wellFormed = true → i ≠ .setmode 3 →
    (isCommand i = true → i ≠ .begin → s.begun = true) →
    (exchangeLengths i s)[k]? = some n → s.answersFrom (drawnBefore i) ((exchangeLengths i s).take k) = true →
    answers (s.drawAt (drawnBefore i + k)) n = false →
    ∃ t out before, exec i s = .next t ∧ t.fault = some (.transportFail out (k + 1)) ∧
      t.outcome = some (.fault (.transportFail out (k + 1))) ∧ t.seq = .idle ∧ SameControl s t ∧
      t.wire = s.wire ++ before ++ [.failed out] ∧ out.length = n ∧ (before.filterMap Event.frame).length = k

/-- R871, R830, R840: every other fault is raised before any exchange, and touches nothing but the record of itself. -/
def Obligations.OtherFaultsTouchNothing : Prop :=
  ∀ (i : Instr) (s : State) (t : State) f, s.cfg.wellFormed = true → exec i s = .next t → t.fault = some f → faultCode f ≠ 4 →
    SameControl s t ∧ Untouched s t ∧ t.seq = .idle ∧ t.outcome = some (.fault f) ∧ t.cfg = s.cfg ∧
      t.inputs = s.inputs

/-! ### The framer -/

/-- R411 to R413, R410: the read frames; each returns the bytes received after the address byte, the first most
significant, raises TransportFail where the exchange fails (R401; that its index is 1 is log 17) and IllegalCommand before
it where the frame would be illegal (R330), and writes no FDC state and no register. No BEGIN is asked for (log 12). -/
def Obligations.ReadFramesReturnReceivedBytes : Prop :=
  ∀ (s : State) a, Ready s →
    let frame := fun n => (a &&& 0x7F#8) :: List.replicate n s.cfg.dummy
    let returns := fun i n received r => s.reply (frame n) = some received →
      ∃ t, exec i s = .next t ∧ Delivered s t r ∧ SameControl s t ∧
        t.wire = s.wire ++ [.exchanged (frame n) received] ∧ t.regs = s.moved.regs
    let fails := fun i n => s.reply (frame n) = none →
      ∃ t, exec i s = .next t ∧ t.fault = some (.transportFail (frame n) 1) ∧ SameControl s t ∧
        t.wire = s.wire ++ [.failed (frame n)] ∧ t.regs = s.moved.regs
    let illegal := fun i n =>
      ∃ t, exec i s = .next t ∧ t.fault = some (.illegalFrame (frame n)) ∧ SameControl s t ∧ Untouched s t
    (0x0F < (a &&& 0x7F#8).toNat → illegal (.rd8 a) 1) ∧
    (0x0E < (a &&& 0x7F#8).toNat → illegal (.rd16 a) 2) ∧
    (0x0D < (a &&& 0x7F#8).toNat → illegal (.rd24 a) 3) ∧
    ((a &&& 0x7F#8).toNat ≤ 0x0F →
      fails (.rd8 a) 1 ∧ ∀ b0 b1, returns (.rd8 a) 1 [b0, b1] (.data8 b1)) ∧
    ((a &&& 0x7F#8).toNat ≤ 0x0E →
      fails (.rd16 a) 2 ∧ ∀ b0 b1 b2, returns (.rd16 a) 2 [b0, b1, b2] (.data16 (b1 ++ b2))) ∧
    ((a &&& 0x7F#8).toNat ≤ 0x0D →
      fails (.rd24 a) 3 ∧ ∀ b0 b1 b2 b3, returns (.rd24 a) 3 [b0, b1, b2, b3] (.data24 (b1 ++ b2 ++ b3)))

/-- R212, R210: when the transport exchanges a read frame, byte `k + 1` received is the register `k` above the frame's
address, as the chip holds it at that exchange; the reply is as long as the frame (R401). -/
def Obligations.ReplyHoldsAscendingRegisters : Prop :=
  ∀ (s : State) a n, wired s.draw = true → readFits a n = true →
    ∃ first, s.reply (a :: List.replicate n s.cfg.dummy)
      = some (first :: (List.range n).map (fun k => Mem.read s.cfg s.moved.regs (a.toNat + k)))

/-- R420, R140, R222: WR8, before BEGIN too (log 12), sends one frame, the register holds the byte (of the chip's own registers no source says what
they hold after a write, R130, log 5), the others are as the chip's own move left them; a CR0 write with 1SHOT and without
CMODE, and no other write, starts a one-shot conversion, and else CMODE says whether the chip free-runs or idles (R121),
unless a one-shot conversion is pending, which a write of neither does not abort (R142, R914; log 6). -/
def Obligations.WriteFrameStoresByte : Prop :=
  ∀ (s : State) a d, Ready s → (a &&& 0x7F#8).toNat ≤ 0x0F → answers s.draw 2 = true →
    ∃ t received, exec (.wr8 a d) s = .next t ∧ Delivered s t .unit ∧ SameControl s t ∧
      t.wire = s.wire ++ [.exchanged [a ||| 0x80#8, d] received] ∧
      (chipOwns s.cfg (a &&& 0x7F#8).toNat = false → Mem.read t.cfg t.regs (a &&& 0x7F#8).toNat = d) ∧
      (∀ b, b ≠ (a &&& 0x7F#8).toNat → Mem.read t.cfg t.regs b = Mem.read s.cfg s.moved.regs b) ∧
      ((a &&& 0x7F#8).toNat ≠ regAddr s.cfg .cr0 → t.conv = s.moved.conv) ∧
      ((a &&& 0x7F#8).toNat = regAddr s.cfg .cr0 → ActsOnConversion s t d)

/-- R430, R431, R420: RMW reads the register and always writes it back, owned bits from `x`, every other bit as read; if
the read raises, the write is not issued. The indices 1 and 2 of a failing exchange are log 17's; an illegal address raises
with the read frame (R410, D7; log 18); no BEGIN is asked for (log 12); what a CR0 write does to a pending conversion is
log 6's. -/
def Obligations.RmwMergesOwnedBits : Prop :=
  ∀ (s : State) a m x, Ready s →
    let read := [a &&& 0x7F#8, s.cfg.dummy]
    let write := fun v => [(a &&& 0x7F#8) ||| 0x80#8, merge v m x]
    (0x0F < (a &&& 0x7F#8).toNat →
      ∃ t, exec (.rmw a m x) s = .next t ∧ t.fault = some (.illegalFrame read) ∧ SameControl s t ∧ Untouched s t) ∧
    ((a &&& 0x7F#8).toNat ≤ 0x0F → s.reply read = none →
      ∃ t, exec (.rmw a m x) s = .next t ∧ t.fault = some (.transportFail read 1) ∧ SameControl s t ∧
        t.wire = s.wire ++ [.failed read]) ∧
    (∀ b v, (a &&& 0x7F#8).toNat ≤ 0x0F → s.reply read = some [b, v] → answers (s.drawAt 1) 2 = false →
      ∃ t, exec (.rmw a m x) s = .next t ∧ t.fault = some (.transportFail (write v) 2) ∧ SameControl s t ∧
        t.wire = s.wire ++ [.exchanged read [b, v], .failed (write v)]) ∧
    ((a &&& 0x7F#8).toNat ≤ 0x0F → s.answersFrom 0 [2, 2] = true →
      ∃ t u v, exec (.rmw a m x) s = .next t ∧ Delivered s t .unit ∧ SameControl s t ∧
        RmwFrames s u t (a &&& 0x7F#8) m x v ∧
        ((a &&& 0x7F#8).toNat = regAddr s.cfg .cr0 → ActsOnConversion u t (merge v m x)) ∧
        (chipOwns s.cfg (a &&& 0x7F#8).toNat = false → Mem.read t.cfg t.regs (a &&& 0x7F#8).toNat = merge v m x) ∧
        ∀ k : Fin 8, (merge v m x).getLsbD k = if m.getLsbD k then x.getLsbD k else v.getLsbD k)

/-! ### Initialisation and configuration -/

/-- R600: a BEGIN whose transport opens and answers sends the eight frames in the source's order, leaves mode OneShot and
`begun`, and returns true; CR0 holds the merged byte, and MASK, CJTO and CR1 theirs if the chip is not reset meanwhile. The last
frame, which writes CR0 with 1SHOT, starts a one-shot conversion if none is pending (R140, R222). -/
def Obligations.BeginInitialises : Prop :=
  ∀ (s : State), Ready s → s.cfg.wellFormed = true → s.draw.granted = true →
    s.answersFrom 1 [2, 2, 2, 2, 2, 2, 2, 2] = true →
    ∃ t v0 v1 v2 r1 r2 r3 r4 r5 r6 r7 r8,
      let frames : List (List Byte × List Byte) :=
        [([regByte s.cfg .mask ||| 0x80#8, 0x00], r1),
         ([regByte s.cfg .cr0, s.cfg.dummy], [r2, v0]),
         ([regByte s.cfg .cr0 ||| 0x80#8, v0 ||| ocfault0Mask s.cfg], r3),
         ([regByte s.cfg .cjto ||| 0x80#8, 0x00], r4),
         ([regByte s.cfg .cr1, s.cfg.dummy], [r5, v1]),
         ([regByte s.cfg .cr1 ||| 0x80#8, (v1 &&& 0xF0#8) ||| s.cfg.tcCode.k.setWidth 8], r6),
         ([regByte s.cfg .cr0, s.cfg.dummy], [r7, v2]),
         ([regByte s.cfg .cr0 ||| 0x80#8, merge v2 (modeMask s.cfg) (oneShotMask s.cfg)], r8)]
      exec .begin s = .next t ∧ Delivered s t (.bool true) ∧ t.mode = some .oneShot ∧ t.begun = true ∧
      t.wire = s.wire ++ .opened true :: frames.map (fun f => .exchanged f.1 f.2) ∧
      t.reg .cr0 = merge v2 (modeMask s.cfg) (oneShotMask s.cfg) ∧
      ((s.opened.sent (frames.take 7)).moved.conv ≠ .oneShot → t.conv = .oneShot) ∧
      ((∀ k < 9, noReset (s.drawAt k) = true) →
        t.reg .mask = 0x00 ∧ t.reg .cjto = 0x00 ∧ t.reg .cr1 = (v1 &&& 0xF0#8) ||| s.cfg.tcCode.k.setWidth 8)

/-- R600, R810: a BEGIN whose transport does not open returns false: no exchange, no fault, `begun` false, mode as it
was; BEGIN may be tried again (the FDC is ready). -/
def Obligations.BeginReportsRefusedOpen : Prop :=
  ∀ (s : State), Ready s → s.draw.granted = false →
    ∃ t, exec .begin s = .next t ∧ Delivered s t (.bool false) ∧ Ready t ∧ t.begun = false ∧ t.mode = s.mode ∧
      t.wire = s.wire ++ [.opened false]

/-- R610: SETTCTYPE writes the low nibble of CR1 and keeps bits 7:4 as read; the operand's high nibble is ignored; the
conversion goes on as the chip's own moves leave it. -/
def Obligations.SettctypeWritesLowNibble : Prop :=
  ∀ (s : State) t8, Operational s → s.cfg.wellFormed = true → s.answersFrom 0 [2, 2] = true →
    ∃ t u v, exec (.settctype t8) s = .next t ∧ Delivered s t .unit ∧ SameControl s t ∧
      RmwFrames s u t (regByte s.cfg .cr1) 0x0F (t8 &&& 0x0F#8) v ∧
      t.reg .cr1 = (v &&& 0xF0#8) ||| (t8 &&& 0x0F#8) ∧ t.conv = u.moved.conv

/-- R620: GETTCTYPE returns the low nibble of CR1 as read, named or not. -/
def Obligations.GettctypeReturnsLowNibble : Prop :=
  ∀ (s : State) b0 v, Operational s → s.reply [regByte s.cfg .cr1, s.cfg.dummy] = some [b0, v] →
    ∃ t, exec .gettctype s = .next t ∧ Delivered s t (.typeCode (v.extractLsb' 0 4)) ∧ SameControl s t ∧
      t.wire = s.wire ++ [.exchanged [regByte s.cfg .cr1, s.cfg.dummy] [b0, v]] ∧ t.regs = s.moved.regs

/-- R541: both round trips of the type field, over all sixteen values. -/
def Obligations.TypeFieldRoundTrips : Prop :=
  ∀ v : BitVec 4, (decodeType (encodeType (v.setWidth 8))) = v ∧ encodeType ((decodeType v).setWidth 8) = v

/-- R630, R580: SETNF sets bit 0 of CR0 to the filter's bit and writes bits 7:1 back as read, 1SHOT among them (R912), so
that it acts on the conversion as that byte does (R140, R142; log 6). -/
def Obligations.SetnfWritesBitZero : Prop :=
  ∀ (s : State) f, Operational s → s.cfg.wellFormed = true → s.answersFrom 0 [2, 2] = true →
    ∃ t u v, exec (.setnf f) s = .next t ∧ Delivered s t .unit ∧ SameControl s t ∧
      RmwFrames s u t (regByte s.cfg .cr0) 0x01 (nfBit s.cfg f) v ∧
      (t.reg .cr0).extractLsb' 1 7 = v.extractLsb' 1 7 ∧
      ((t.reg .cr0).extractLsb' 0 1 = s.cfg.nf50HzBit ↔ f = 0) ∧ ActsOnConversion u t v

/-- R640, R560, R432: SETCJTHR writes CJLF, then CJHF, the two patterns unscaled and unordered, with no read. -/
def Obligations.SetcjthrWritesBothThresholds : Prop :=
  ∀ (s : State) low high, Operational s → s.cfg.wellFormed = true → s.answersFrom 0 [2, 2] = true →
    ∃ t r1 r2, exec (.setcjthr low high) s = .next t ∧ Delivered s t .unit ∧ SameControl s t ∧
      t.wire = s.wire ++ [.exchanged [regByte s.cfg .cjlf ||| 0x80#8, low] r1,
        .exchanged [regByte s.cfg .cjhf ||| 0x80#8, high] r2] ∧
      t.reg .cjhf = high ∧ (noReset (s.drawAt 1) = true → t.reg .cjlf = low)

/-- R650: SETTCTHR with both operands in range writes the high pair, then the low pair, most significant byte first. -/
def Obligations.SettcthrWritesFourBytes : Prop :=
  ∀ (s : State) flow fhigh lo hi, Operational s → s.cfg.wellFormed = true →
    encodeTcThreshold flow = some lo → encodeTcThreshold fhigh = some hi →
    s.answersFrom 0 [2, 2, 2, 2] = true →
    ∃ t r1 r2 r3 r4, exec (.settcthr flow fhigh) s = .next t ∧ Delivered s t .unit ∧ SameControl s t ∧
      t.wire = s.wire ++ [.exchanged [regByte s.cfg .lthfth ||| 0x80#8, hi.extractLsb' 8 8] r1,
        .exchanged [regByte s.cfg .lthftl ||| 0x80#8, hi.extractLsb' 0 8] r2,
        .exchanged [regByte s.cfg .ltlfth ||| 0x80#8, lo.extractLsb' 8 8] r3,
        .exchanged [regByte s.cfg .ltlftl ||| 0x80#8, lo.extractLsb' 0 8] r4] ∧
      ((∀ k < 4, noReset (s.drawAt k) = true) →
        t.reg .lthfth ++ t.reg .lthftl = hi ∧ t.reg .ltlfth ++ t.reg .ltlftl = lo)

/-- R840, R850: SETTCTHR with an operand that has no pattern raises OperandRange with the first such operand and issues
no exchange. -/
def Obligations.SettcthrRefusesOutOfRange : Prop :=
  ∀ (s : State) flow fhigh, Operational s → encodeTcThreshold flow = none ∨ encodeTcThreshold fhigh = none →
    ∃ t x, exec (.settcthr flow fhigh) s = .next t ∧ t.fault = some (.operandRange x) ∧
      t.outcome = some (.fault (.operandRange x)) ∧ t.seq = .idle ∧ SameControl s t ∧ Untouched s t ∧
      x = (if encodeTcThreshold flow = none then flow else fhigh)

/-- R660: READFAULT returns SR as read, one exchange, no bit looked at. -/
def Obligations.ReadfaultReturnsStatus : Prop :=
  ∀ (s : State) b0 v, Operational s → s.reply [regByte s.cfg .sr, s.cfg.dummy] = some [b0, v] →
    ∃ t, exec .readfault s = .next t ∧ Delivered s t (.status v) ∧ SameControl s t ∧
      t.wire = s.wire ++ [.exchanged [regByte s.cfg .sr, s.cfg.dummy] [b0, v]] ∧ t.regs = s.moved.regs

/-- R670: READCJ returns the decoded 16-bit value in every mode, triggers nothing and never returns NaN. -/
def Obligations.ReadcjReturnsDecodedValue : Prop :=
  ∀ (s : State) b0 b1 b2, Operational s → s.cfg.wellFormed = true →
    s.reply [regByte s.cfg .cjth, s.cfg.dummy, s.cfg.dummy] = some [b0, b1, b2] →
    ∃ t, exec .readcj s = .next t ∧ Delivered s t (.temperature (.value (decodeCj (b1 ++ b2)))) ∧ SameControl s t ∧
      t.wire = s.wire ++ [.exchanged [regByte s.cfg .cjth, s.cfg.dummy, s.cfg.dummy] [b0, b1, b2]] ∧
      t.regs = s.moved.regs

/-! ### The conversion-mode state machine -/

/-- R570, R431: what a mode write leaves in CR0: CMODE exactly in Continuous, 1SHOT exactly in the other two, every other
bit as read. -/
def Obligations.ModeBitsOwnTwoBits : Prop :=
  ∀ (c : Config) (m : Mode) (v : Byte), c.wellFormed = true →
    (cmodeSet c (merge v (modeMask c) (modeBits c m)) = true ↔ m = .continuous) ∧
    (oneShotSet c (merge v (modeMask c) (modeBits c m)) = true ↔ m ≠ .continuous) ∧
    ∀ k : Fin 8, k ≠ c.bitCmode → k ≠ c.bitOneShot →
      (merge v (modeMask c) (modeBits c m)).getLsbD k = v.getLsbD k

/-- R700: SETMODE writes the mode's bits by read-modify-write and then the mirror, from every mode; where no one-shot
conversion is pending at its write, the chip free-runs after Continuous and starts a one-shot conversion after the other
two (R140, R222). -/
def Obligations.SetmodeWritesBitsAndMirror : Prop :=
  ∀ (s : State) m mode, Operational s → s.cfg.wellFormed = true → modeOf m = some mode → s.answersFrom 0 [2, 2] = true →
    ∃ t u v, exec (.setmode m) s = .next t ∧ Delivered s t .unit ∧ t.mode = some mode ∧ t.begun = s.begun ∧
      RmwFrames s u t (regByte s.cfg .cr0) (modeMask s.cfg) (modeBits s.cfg mode) v ∧
      t.reg .cr0 = merge v (modeMask s.cfg) (modeBits s.cfg mode) ∧
      (u.moved.conv ≠ .oneShot → t.conv = if mode = .continuous then .continuous else .oneShot)

/-- R710, R105: GETMODE returns the mirror; no exchange, no state but the outcome. -/
def Obligations.GetmodeReturnsMirror : Prop :=
  ∀ (s : State), Operational s →
    ∃ t, exec .getmode s = .next t ∧ Delivered s t (.mode s.mode) ∧ SameControl s t ∧ Untouched s t

/-- R720: TRIGGER does nothing in Continuous; else it clears CMODE and sets 1SHOT by read-modify-write, which starts a
one-shot conversion where none is pending at its write (R140, R222). -/
def Obligations.TriggerSetsOneShot : Prop :=
  ∀ (s : State), Operational s → s.cfg.wellFormed = true →
    (s.mode = some .continuous →
      ∃ t, exec .trigger s = .next t ∧ Delivered s t .unit ∧ SameControl s t ∧ Untouched s t) ∧
    (s.mode ≠ some .continuous → s.answersFrom 0 [2, 2] = true →
      ∃ t u v, exec .trigger s = .next t ∧ Delivered s t .unit ∧ SameControl s t ∧
        RmwFrames s u t (regByte s.cfg .cr0) (modeMask s.cfg) (oneShotMask s.cfg) v ∧
        t.reg .cr0 = merge v (modeMask s.cfg) (oneShotMask s.cfg) ∧ (u.moved.conv ≠ .oneShot → t.conv = .oneShot))

/-- R730: CONVDONE is true in Continuous without an exchange; else one read of CR0, and whether 1SHOT read 0. -/
def Obligations.ConvdoneReportsOneShotBit : Prop :=
  ∀ (s : State), Operational s →
    (s.mode = some .continuous →
      ∃ t, exec .convdone s = .next t ∧ Delivered s t (.bool true) ∧ SameControl s t ∧ Untouched s t) ∧
    (s.mode ≠ some .continuous → ∀ b0 v, s.reply [regByte s.cfg .cr0, s.cfg.dummy] = some [b0, v] →
      ∃ t, exec .convdone s = .next t ∧ Delivered s t (.bool (v &&& oneShotMask s.cfg == 0)) ∧ SameControl s t ∧
        t.wire = s.wire ++ [.exchanged [regByte s.cfg .cr0, s.cfg.dummy] [b0, v]] ∧ t.regs = s.moved.regs)

/-- R740: outside OneShot READTC reads at once: no trigger, no poll. -/
def Obligations.ReadtcReadsAtOnce : Prop :=
  ∀ (s : State) b0 b1 b2 b3, Operational s → s.cfg.wellFormed = true → s.mode ≠ some .oneShot →
    s.reply [regByte s.cfg .ltcbh, s.cfg.dummy, s.cfg.dummy, s.cfg.dummy] = some [b0, b1, b2, b3] →
    ∃ t, exec .readtc s = .next t ∧ Delivered s t (.temperature (.value (decodeTc (b1 ++ b2 ++ b3)))) ∧
      SameControl s t ∧ t.regs = s.moved.regs ∧
      t.wire = s.wire ++
        [.exchanged [regByte s.cfg .ltcbh, s.cfg.dummy, s.cfg.dummy, s.cfg.dummy] [b0, b1, b2, b3]]

/-- R740, R741: in OneShot READTC triggers, takes the start time and checks; when this first check reads 1SHOT = 0 it reads
the value at once, with no timeout test and no sleep. -/
def Obligations.ReadtcTriggersAndChecks : Prop :=
  ∀ (s : State), Operational s → s.cfg.wellFormed = true → s.mode = some .oneShot →
    s.answersFrom 0 [2, 2, 2, 4] = true →
    ∃ t b0 v r start d0 w rest, exec .readtc s = .next t ∧ SameControl s t ∧
      s.reply [regByte s.cfg .cr0, s.cfg.dummy] = some [b0, v] ∧
      t.wire = s.wire ++
        [.exchanged [regByte s.cfg .cr0, s.cfg.dummy] [b0, v],
         .exchanged [regByte s.cfg .cr0 ||| 0x80#8, merge v (modeMask s.cfg) (oneShotMask s.cfg)] r,
         .timed start,
         .exchanged [regByte s.cfg .cr0, s.cfg.dummy] [d0, w]] ++ rest ∧
      (oneShotSet s.cfg w = false → ∃ e0 e1 e2 e3,
        Delivered s t (.temperature (.value (decodeTc (e1 ++ e2 ++ e3)))) ∧
        rest = [.exchanged [regByte s.cfg .ltcbh, s.cfg.dummy, s.cfg.dummy, s.cfg.dummy] [e0, e1, e2, e3]])

/-- R740, R741, R742(a), R743: NaN comes from READTC in OneShot only, only after the time source has shown more than
250 ms since the start time taken after the trigger's write; until then every check reads 1SHOT = 1 and every reading of
the time shows no more than 250 ms, with a sleep of POLL_MS between; the thermocouple registers are not read, and no
exchange follows the last check. The same of the rest of a poll that was left running (logs 1 and 20), whose start time is
the one kept in `locals`; such a poll has delivered nothing yet, as `StepKeepsInvariant` says. -/
def Obligations.TimeoutIsNeverEarly : Prop :=
  (∀ (i : Instr) (s : State) (t : State), exec i s = .next t → t.outcome = some (.result (.temperature .nan)) →
    i = .readtc ∧ s.mode = some .oneShot ∧ SameControl s t ∧
    ∃ r1 r2 w start events,
      t.wire = s.wire ++ [.exchanged [regByte s.cfg .cr0, s.cfg.dummy] r1,
        .exchanged [regByte s.cfg .cr0 ||| 0x80#8, w] r2, .timed start] ++ events ∧
      PolledToTimeout s.cfg start events) ∧
  (∀ (s : State) (t : State) l start, s.seq = .busy .readtc pollHead l → l.start = some start → s.outcome = none →
    step s = .next t → t.outcome = some (.result (.temperature .nan)) →
    SameControl s t ∧ t.seq = .idle ∧ t.fault = none ∧
    ∃ events, t.wire = s.wire ++ events ∧ PolledToTimeout s.cfg start events)

/-- R740, R741: the value's counterpart. READTC in OneShot delivers a value only after its trigger, the start time and a poll
whose last check, and no earlier one, read 1SHOT = 0, with no reading of the time above 250 ms; the value is decoded from
the read of LTCBH to LTCBL that follows that check at once. The same of the rest of a poll that was left running (logs 1
and 20), in the states `StepKeepsInvariant` says it is left in. -/
def Obligations.ValueFollowsCompletedCheck : Prop :=
  (∀ (s : State) (t : State) x, s.mode = some .oneShot → exec .readtc s = .next t →
    t.outcome = some (.result (.temperature (.value x))) →
    SameControl s t ∧ ∃ r1 r2 w start events,
      t.wire = s.wire ++ [.exchanged [regByte s.cfg .cr0, s.cfg.dummy] r1,
        .exchanged [regByte s.cfg .cr0 ||| 0x80#8, w] r2, .timed start] ++ events ∧
      PolledToValue s.cfg start events x) ∧
  (∀ (s : State) (t : State) l start x, s.mode = some .oneShot → s.seq = .busy .readtc pollHead l → l.start = some start →
    s.outcome = none → step s = .next t → t.outcome = some (.result (.temperature (.value x))) →
    SameControl s t ∧ t.seq = .idle ∧ t.fault = none ∧
    ∃ events, t.wire = s.wire ++ events ∧ PolledToValue s.cfg start events x)

/-- R742(b): where the count does not wrap past the start time during the poll, READTC in OneShot ends in this one step
(log 1), whatever the transport answers, after at most floor(250 / POLL_MS) + 2 completion checks: with a value or NaN, or
in TransportFail where an exchange failed, which is none where every reply comes from the registers. -/
def Obligations.PollEndsWithinBound : Prop :=
  ∀ (s : State), Operational s → s.cfg.wellFormed = true → s.mode = some .oneShot →
    ((List.range (2 * pollBudget s.cfg + 1)).map (fun k => (s.drawAt k).ms)).sum
      + pollBudget s.cfg * s.cfg.pollMs < 2 ^ s.cfg.timeWidth →
    ∃ t new, exec .readtc s = .next t ∧ t.seq = .idle ∧ SameControl s t ∧ t.wire = s.wire ++ new ∧
      (new.filter (fun e => e.frame == some [regByte s.cfg .cr0, s.cfg.dummy])).length ≤ pollBudget s.cfg + 1 ∧
      ((∃ r, Delivered s t (.temperature r)) ∨
        ∃ out k, new.getLast? = some (.failed out) ∧ t.fault = some (.transportFail out k) ∧
          t.outcome = some (.fault (.transportFail out k))) ∧
      ((∀ k < 2 * pollBudget s.cfg + 2, wired (s.drawAt k) = true) → ∃ r, Delivered s t (.temperature r))

/-- R740, R741, R760: READTC in OneShot returns the conversion's thermocouple value at whichever completion check first reads
1SHOT = 0, if the chip is then as `CHIP_RESULT_VALID` says: after its own trigger, and in a poll that was left running at
its loop head (logs 1 and 20). One step makes the first `pollBudget` checks of its poll, R742's bound (log 1). -/
def Obligations.PollReturnsChipResult : Prop :=
  ∀ (s x : State) n tc cj d0 w, s.fault = none → s.cfg.wellFormed = true → s.mode = some .oneShot →
    let check := [regByte s.cfg .cr0, s.cfg.dummy]
    let returns := fun t => Delivered s t (.temperature (.value (decodeTc tc))) ∧ SameControl s t
    n < pollBudget s.cfg → x.reply check = some [d0, w] → oneShotSet s.cfg w = false →
    ChipResultValid (x.exchanged check [d0, w]) tc cj →
    (s.seq = .idle → s.begun = true → ∀ b0 v r,
      let trigger := [regByte s.cfg .cr0 ||| 0x80#8, merge v (modeMask s.cfg) (oneShotMask s.cfg)]
      let u := (s.exchanged check [b0, v]).exchanged trigger r
      s.reply check = some [b0, v] → (s.exchanged check [b0, v]).reply trigger = some r → PollReaches u.time n u x →
      ∃ t, exec .readtc s = .next t ∧ returns t) ∧
    (∀ l start, s.inputs = [] → s.seq = .busy .readtc pollHead l → l.start = some start → PollReaches start n s x →
      ∃ t, step s = .next t ∧ returns t)

/-- R740, R670, R760: READTC in the other two modes and READCJ in every mode return what the chip's registers hold of its
conversion, decoded, where the chip is as `CHIP_RESULT_VALID` says. -/
def Obligations.ReadingsReturnChipResult : Prop :=
  ∀ (s : State) tc cj, Operational s → s.cfg.wellFormed = true → ChipResultValid s tc cj →
    (s.mode ≠ some .oneShot →
      ∃ t, exec .readtc s = .next t ∧ Delivered s t (.temperature (.value (decodeTc tc))) ∧ SameControl s t) ∧
    ∃ t, exec .readcj s = .next t ∧ Delivered s t (.temperature (.value (decodeCj cj))) ∧ SameControl s t

/-! ### The decoders and encoders -/

/-- R500, R502, R520: decodeTC is exact: the binary32 it returns is finite and denotes the 19-bit field over 128. -/
def Obligations.DecodeTcIsExact : Prop :=
  ∀ raw : BitVec 24,
    f32Finite (decodeTc raw) = true ∧
    f32Value (decodeTc raw) = ((raw.extractLsb' 5 19).toInt : ℚ) / 128 ∧
    (raw.extractLsb' 5 19).toInt = ⌊(raw.toInt : ℚ) / 32⌋ ∧
    (raw.extractLsb' 5 19 = 0 → decodeTc raw = 0)

/-- R510, R520 (D12): decodeCJ is exact: finite, the two's-complement value over 256, and zero is +0.0. -/
def Obligations.DecodeCjIsExact : Prop :=
  ∀ raw : BitVec 16,
    f32Finite (decodeCj raw) = true ∧ f32Value (decodeCj raw) = (raw.toInt : ℚ) / 256 ∧
    (raw = 0 → decodeCj raw = 0)

/-- R550, R551: encodeTCThreshold accepts exactly the finite values strictly between -2048.0625 and 2048, and the stored
pattern is 16 x truncated toward zero. -/
def Obligations.TcThresholdTruncatesTowardZero : Prop :=
  ∀ x : F32,
    ((encodeTcThreshold x).isSome = true ↔
      f32Finite x = true ∧ -2048 - 1 / 16 < f32Value x ∧ f32Value x < 2048) ∧
    ∀ p, encodeTcThreshold x = some p →
      p.toInt = if f32Value x < 0 then ⌈16 * f32Value x⌉ else ⌊16 * f32Value x⌋

/-! ### Whole-machine rules -/

/-- Frame (R101, R105): an instruction that ends in a next state leaves the parameters, the host's queue and the agents'
answers; only BEGIN and SETMODE write the mirror, only BEGIN writes `begun`; what was on the wire stays there. -/
def Obligations.FdcFieldsHaveSingleWriters : Prop :=
  ∀ (i : Instr) (s : State) (t : State), exec i s = .next t →
    t.cfg = s.cfg ∧ t.inputs = s.inputs ∧ t.script = s.script ∧ s.drawn ≤ t.drawn ∧ s.wire <+: t.wire ∧
    (i ≠ .begin → t.begun = s.begun) ∧
    (i ≠ .begin → (∀ m, i ≠ .setmode m) → t.mode = s.mode)

/-- Frame (R420, R432): where the chip itself makes no move during the instruction, every register but those the
instruction writes reads as before, and the conversion state changes only with a write of CR0 (R222); the registers
written are computed by `storedTo`. That the same holds of a write frame that fails, which may leave any value in the
register it addresses and no other, is the model's reading (log 7, DEDUCED). -/
def Obligations.OnlyAddressedRegistersChange : Prop :=
  ∀ (i : Instr) (s : State) (t : State), exec i s = .next t → AllDrawn s t quiet →
    (∀ a, a ∉ storedTo i s → Mem.read t.cfg t.regs a = Mem.read s.cfg s.regs a) ∧
    (regAddr s.cfg .cr0 ∉ storedTo i s → t.conv = s.conv)

/-- R130, R432: every write frame of a host command addresses a register of that command, and never one of the result
registers or SR. -/
def Obligations.CommandsWriteOnlyTheirRegisters : Prop :=
  ∀ (i : Instr) (s : State) (t : State), isCommand i = true → s.cfg.wellFormed = true → exec i s = .next t →
    ∃ new, t.wire = s.wire ++ new ∧
      ∀ e ∈ new, ∀ ab d a, e.frame = some [ab, d] → writtenReg ab = some a →
        a ∈ storedTo i s ∧ ∀ r ∈ chipOwned, a ≠ regAddr s.cfg r

/-- R330, R201, R214: whatever step is taken from whatever state, every frame it sends is a legal one, and what was on the
wire stays there. -/
def Obligations.EveryFrameSentIsLegal : Prop :=
  ∀ (s : State) (t : State), step s = .next t →
    ∃ new, t.wire = s.wire ++ new ∧ ∀ e ∈ new, ∀ out, e.frame = some out → legalFrame out = true

/-- R914, R140, R142: a step after which a one-shot conversion is pending that was not pending before has written CR0, by
a frame that left 1SHOT set and CMODE clear, or by one that failed (log 7). -/
def Obligations.OneShotStartsOnlyByWrite : Prop :=
  ∀ (s : State) (t : State), step s = .next t → s.conv ≠ .oneShot → t.conv = .oneShot →
    ∃ new e ab v, t.wire = s.wire ++ new ∧ e ∈ new ∧ e.frame = some [ab, v] ∧
      writtenReg ab = some (regAddr s.cfg .cr0) ∧
      (e = .failed [ab, v] ∨ oneShotSet s.cfg v = true ∧ cmodeSet s.cfg v = false)

/-- Every step keeps the invariant: the register file canonical, the count within TIME_WIDTH bits, `begun` with a mode, a
fault with an Idle sequencer, a chip with no one-shot conversion pending free-running exactly when CMODE is set (R121,
R140), and only READTC's poll left running, at its loop head, with nothing delivered yet, which is the model's choice (logs
1 and 20). -/
def Obligations.StepKeepsInvariant : Prop :=
  ∀ (s : State) (t : State), StateInv s → step s = .next t → StateInv t

/-- R104 (as 90_conflicts.md C1 reads it): every step keeps CR0.CMODE = 1 exactly in Continuous, where no agent but the FDC
writes CR0 and the chip keeps to what the source describes of it, whatever fault is recorded, but for the failure of a
write of CR0 itself, after which CR0 may hold any value (95_test_vectors.md B2; log 7). -/
def Obligations.StepKeepsModeMirror : Prop :=
  ∀ (s : State) (t : State), s.cfg.wellFormed = true → Mirror s → FdcOnly s → step s = .next t → AllDrawn s t lawful → Mirror t

/-- R151: the reference chip, once its conversion time has passed, has stored its results and cleared 1SHOT, and leaves
the other bits of CR0; it idles, or free-runs where CMODE has been set meanwhile (R140; log 8). -/
def Obligations.ReferenceChipCompletes : Prop :=
  ∀ (s : State), s.cfg.wellFormed = true → s.draw.chip = .reference → s.conv = .oneShot → s.cfg.refMs ≤ s.age →
    s.moved.ltcb = s.cfg.refTc ∧ s.moved.reg .cjth ++ s.moved.reg .cjtl = s.cfg.refCj ∧
    s.moved.reg .cr0 = s.reg .cr0 &&& ~~~(oneShotMask s.cfg) ∧
    s.moved.conv = if cmodeSet s.cfg (s.reg .cr0) then .continuous else .idle
end

