-- ==== Sys2Proof/Laws/State.lean ====
section
/-! SUPPORT. One lemma for each field of State and each named update of it, true by unfolding the update once. -/

namespace Sys2Proof.Machine

@[simp] theorem State.moved_mode (s : State) : s.moved.mode = s.mode := rfl
@[simp] theorem State.moved_begun (s : State) : s.moved.begun = s.begun := rfl
@[simp] theorem State.moved_seq (s : State) : s.moved.seq = s.seq := rfl
@[simp] theorem State.moved_fault (s : State) : s.moved.fault = s.fault := rfl
theorem State.moved_regs (s : State) : s.moved.regs = chipRegs s.cfg s.regs s.conv s.age s.draw.chip := rfl
theorem State.moved_conv (s : State) : s.moved.conv = chipConv s.cfg s.regs s.conv s.age s.draw.chip := rfl
@[simp] theorem State.moved_age (s : State) : s.moved.age = s.age := rfl
@[simp] theorem State.moved_now (s : State) : s.moved.now = s.now := rfl
@[simp] theorem State.moved_cfg (s : State) : s.moved.cfg = s.cfg := rfl
@[simp] theorem State.moved_inputs (s : State) : s.moved.inputs = s.inputs := rfl
@[simp] theorem State.moved_outcome (s : State) : s.moved.outcome = s.outcome := rfl
@[simp] theorem State.moved_script (s : State) : s.moved.script = s.script := rfl
@[simp] theorem State.moved_drawn (s : State) : s.moved.drawn = s.drawn + 1 := rfl
@[simp] theorem State.moved_wire (s : State) : s.moved.wire = s.wire := rfl

@[simp] theorem State.pass_mode (ms : Nat) (s : State) : (s.pass ms).mode = s.mode := rfl
@[simp] theorem State.pass_begun (ms : Nat) (s : State) : (s.pass ms).begun = s.begun := rfl
@[simp] theorem State.pass_seq (ms : Nat) (s : State) : (s.pass ms).seq = s.seq := rfl
@[simp] theorem State.pass_fault (ms : Nat) (s : State) : (s.pass ms).fault = s.fault := rfl
@[simp] theorem State.pass_regs (ms : Nat) (s : State) : (s.pass ms).regs = s.regs := rfl
@[simp] theorem State.pass_conv (ms : Nat) (s : State) : (s.pass ms).conv = s.conv := rfl
@[simp] theorem State.pass_age (ms : Nat) (s : State) : (s.pass ms).age = s.age + ms := rfl
@[simp] theorem State.pass_now (ms : Nat) (s : State) : (s.pass ms).now = (s.now + ms) % 2 ^ s.cfg.timeWidth := rfl
@[simp] theorem State.pass_cfg (ms : Nat) (s : State) : (s.pass ms).cfg = s.cfg := rfl
@[simp] theorem State.pass_inputs (ms : Nat) (s : State) : (s.pass ms).inputs = s.inputs := rfl
@[simp] theorem State.pass_outcome (ms : Nat) (s : State) : (s.pass ms).outcome = s.outcome := rfl
@[simp] theorem State.pass_script (ms : Nat) (s : State) : (s.pass ms).script = s.script := rfl
@[simp] theorem State.pass_drawn (ms : Nat) (s : State) : (s.pass ms).drawn = s.drawn := rfl
@[simp] theorem State.pass_wire (ms : Nat) (s : State) : (s.pass ms).wire = s.wire := rfl

@[simp] theorem State.logged_mode (e : Event) (s : State) : (s.logged e).mode = s.mode := rfl
@[simp] theorem State.logged_begun (e : Event) (s : State) : (s.logged e).begun = s.begun := rfl
@[simp] theorem State.logged_seq (e : Event) (s : State) : (s.logged e).seq = s.seq := rfl
@[simp] theorem State.logged_fault (e : Event) (s : State) : (s.logged e).fault = s.fault := rfl
@[simp] theorem State.logged_regs (e : Event) (s : State) : (s.logged e).regs = s.regs := rfl
@[simp] theorem State.logged_conv (e : Event) (s : State) : (s.logged e).conv = s.conv := rfl
@[simp] theorem State.logged_age (e : Event) (s : State) : (s.logged e).age = s.age := rfl
@[simp] theorem State.logged_now (e : Event) (s : State) : (s.logged e).now = s.now := rfl
@[simp] theorem State.logged_cfg (e : Event) (s : State) : (s.logged e).cfg = s.cfg := rfl
@[simp] theorem State.logged_inputs (e : Event) (s : State) : (s.logged e).inputs = s.inputs := rfl
@[simp] theorem State.logged_outcome (e : Event) (s : State) : (s.logged e).outcome = s.outcome := rfl
@[simp] theorem State.logged_script (e : Event) (s : State) : (s.logged e).script = s.script := rfl
@[simp] theorem State.logged_drawn (e : Event) (s : State) : (s.logged e).drawn = s.drawn := rfl
@[simp] theorem State.logged_wire (e : Event) (s : State) : (s.logged e).wire = s.wire ++ [e] := rfl

@[simp] theorem State.opened_mode (s : State) : s.opened.mode = s.mode := rfl
@[simp] theorem State.opened_begun (s : State) : s.opened.begun = s.begun := rfl
@[simp] theorem State.opened_seq (s : State) : s.opened.seq = s.seq.tick := rfl
@[simp] theorem State.opened_fault (s : State) : s.opened.fault = s.fault := rfl
theorem State.opened_regs (s : State) : s.opened.regs = s.moved.regs := rfl
theorem State.opened_conv (s : State) : s.opened.conv = s.moved.conv := rfl
@[simp] theorem State.opened_age (s : State) : s.opened.age = s.age + s.draw.ms := rfl
@[simp] theorem State.opened_now (s : State) : s.opened.now = (s.now + s.draw.ms) % 2 ^ s.cfg.timeWidth := rfl
@[simp] theorem State.opened_cfg (s : State) : s.opened.cfg = s.cfg := rfl
@[simp] theorem State.opened_inputs (s : State) : s.opened.inputs = s.inputs := rfl
@[simp] theorem State.opened_outcome (s : State) : s.opened.outcome = s.outcome := rfl
@[simp] theorem State.opened_script (s : State) : s.opened.script = s.script := rfl
@[simp] theorem State.opened_drawn (s : State) : s.opened.drawn = s.drawn + 1 := rfl
@[simp] theorem State.opened_wire (s : State) : s.opened.wire = s.wire ++ [.opened s.draw.granted] := rfl

@[simp] theorem State.timed_mode (s : State) : s.timed.mode = s.mode := rfl
@[simp] theorem State.timed_begun (s : State) : s.timed.begun = s.begun := rfl
@[simp] theorem State.timed_seq (s : State) : s.timed.seq = s.seq.tick := rfl
@[simp] theorem State.timed_fault (s : State) : s.timed.fault = s.fault := rfl
@[simp] theorem State.timed_regs (s : State) : s.timed.regs = s.regs := rfl
@[simp] theorem State.timed_conv (s : State) : s.timed.conv = s.conv := rfl
@[simp] theorem State.timed_age (s : State) : s.timed.age = s.age := rfl
@[simp] theorem State.timed_now (s : State) : s.timed.now = s.now := rfl
@[simp] theorem State.timed_cfg (s : State) : s.timed.cfg = s.cfg := rfl
@[simp] theorem State.timed_inputs (s : State) : s.timed.inputs = s.inputs := rfl
@[simp] theorem State.timed_outcome (s : State) : s.timed.outcome = s.outcome := rfl
@[simp] theorem State.timed_script (s : State) : s.timed.script = s.script := rfl
@[simp] theorem State.timed_drawn (s : State) : s.timed.drawn = s.drawn := rfl
@[simp] theorem State.timed_wire (s : State) : s.timed.wire = s.wire ++ [.timed s.time] := rfl

@[simp] theorem State.setMode_mode (m : Mode) (s : State) : (s.setMode m).mode = some m := rfl
@[simp] theorem State.setMode_begun (m : Mode) (s : State) : (s.setMode m).begun = s.begun := rfl
@[simp] theorem State.setMode_seq (m : Mode) (s : State) : (s.setMode m).seq = s.seq.tick := rfl
@[simp] theorem State.setMode_fault (m : Mode) (s : State) : (s.setMode m).fault = s.fault := rfl
@[simp] theorem State.setMode_regs (m : Mode) (s : State) : (s.setMode m).regs = s.regs := rfl
@[simp] theorem State.setMode_conv (m : Mode) (s : State) : (s.setMode m).conv = s.conv := rfl
@[simp] theorem State.setMode_age (m : Mode) (s : State) : (s.setMode m).age = s.age := rfl
@[simp] theorem State.setMode_now (m : Mode) (s : State) : (s.setMode m).now = s.now := rfl
@[simp] theorem State.setMode_cfg (m : Mode) (s : State) : (s.setMode m).cfg = s.cfg := rfl
@[simp] theorem State.setMode_inputs (m : Mode) (s : State) : (s.setMode m).inputs = s.inputs := rfl
@[simp] theorem State.setMode_outcome (m : Mode) (s : State) : (s.setMode m).outcome = s.outcome := rfl
@[simp] theorem State.setMode_script (m : Mode) (s : State) : (s.setMode m).script = s.script := rfl
@[simp] theorem State.setMode_drawn (m : Mode) (s : State) : (s.setMode m).drawn = s.drawn := rfl
@[simp] theorem State.setMode_wire (m : Mode) (s : State) : (s.setMode m).wire = s.wire := rfl

@[simp] theorem State.setBegun_mode (b : Bool) (s : State) : (s.setBegun b).mode = s.mode := rfl
@[simp] theorem State.setBegun_begun (b : Bool) (s : State) : (s.setBegun b).begun = b := rfl
@[simp] theorem State.setBegun_seq (b : Bool) (s : State) : (s.setBegun b).seq = s.seq.tick := rfl
@[simp] theorem State.setBegun_fault (b : Bool) (s : State) : (s.setBegun b).fault = s.fault := rfl
@[simp] theorem State.setBegun_regs (b : Bool) (s : State) : (s.setBegun b).regs = s.regs := rfl
@[simp] theorem State.setBegun_conv (b : Bool) (s : State) : (s.setBegun b).conv = s.conv := rfl
@[simp] theorem State.setBegun_age (b : Bool) (s : State) : (s.setBegun b).age = s.age := rfl
@[simp] theorem State.setBegun_now (b : Bool) (s : State) : (s.setBegun b).now = s.now := rfl
@[simp] theorem State.setBegun_cfg (b : Bool) (s : State) : (s.setBegun b).cfg = s.cfg := rfl
@[simp] theorem State.setBegun_inputs (b : Bool) (s : State) : (s.setBegun b).inputs = s.inputs := rfl
@[simp] theorem State.setBegun_outcome (b : Bool) (s : State) : (s.setBegun b).outcome = s.outcome := rfl
@[simp] theorem State.setBegun_script (b : Bool) (s : State) : (s.setBegun b).script = s.script := rfl
@[simp] theorem State.setBegun_drawn (b : Bool) (s : State) : (s.setBegun b).drawn = s.drawn := rfl
@[simp] theorem State.setBegun_wire (b : Bool) (s : State) : (s.setBegun b).wire = s.wire := rfl

@[simp] theorem accept_mode (i : Instr) (s : State) : (accept i s).mode = s.mode := rfl
@[simp] theorem accept_begun (i : Instr) (s : State) : (accept i s).begun = s.begun := rfl
@[simp] theorem accept_seq (i : Instr) (s : State) : (accept i s).seq = .busy i 0 ⟨[], none, 0⟩ := rfl
@[simp] theorem accept_fault (i : Instr) (s : State) : (accept i s).fault = s.fault := rfl
@[simp] theorem accept_regs (i : Instr) (s : State) : (accept i s).regs = s.regs := rfl
@[simp] theorem accept_conv (i : Instr) (s : State) : (accept i s).conv = s.conv := rfl
@[simp] theorem accept_age (i : Instr) (s : State) : (accept i s).age = s.age := rfl
@[simp] theorem accept_now (i : Instr) (s : State) : (accept i s).now = s.now := rfl
@[simp] theorem accept_cfg (i : Instr) (s : State) : (accept i s).cfg = s.cfg := rfl
@[simp] theorem accept_inputs (i : Instr) (s : State) : (accept i s).inputs = s.inputs := rfl
@[simp] theorem accept_outcome (i : Instr) (s : State) : (accept i s).outcome = none := rfl
@[simp] theorem accept_script (i : Instr) (s : State) : (accept i s).script = s.script := rfl
@[simp] theorem accept_drawn (i : Instr) (s : State) : (accept i s).drawn = s.drawn := rfl
@[simp] theorem accept_wire (i : Instr) (s : State) : (accept i s).wire = s.wire := rfl

@[simp] theorem raise_mode (f : FdcFault) (s : State) : (raise f s).mode = s.mode := rfl
@[simp] theorem raise_begun (f : FdcFault) (s : State) : (raise f s).begun = s.begun := rfl
@[simp] theorem raise_seq (f : FdcFault) (s : State) : (raise f s).seq = .idle := rfl
@[simp] theorem raise_fault (f : FdcFault) (s : State) : (raise f s).fault = some f := rfl
@[simp] theorem raise_regs (f : FdcFault) (s : State) : (raise f s).regs = s.regs := rfl
@[simp] theorem raise_conv (f : FdcFault) (s : State) : (raise f s).conv = s.conv := rfl
@[simp] theorem raise_age (f : FdcFault) (s : State) : (raise f s).age = s.age := rfl
@[simp] theorem raise_now (f : FdcFault) (s : State) : (raise f s).now = s.now := rfl
@[simp] theorem raise_cfg (f : FdcFault) (s : State) : (raise f s).cfg = s.cfg := rfl
@[simp] theorem raise_inputs (f : FdcFault) (s : State) : (raise f s).inputs = s.inputs := rfl
@[simp] theorem raise_outcome (f : FdcFault) (s : State) : (raise f s).outcome = some (.fault f) := rfl
@[simp] theorem raise_script (f : FdcFault) (s : State) : (raise f s).script = s.script := rfl
@[simp] theorem raise_drawn (f : FdcFault) (s : State) : (raise f s).drawn = s.drawn := rfl
@[simp] theorem raise_wire (f : FdcFault) (s : State) : (raise f s).wire = s.wire := rfl

@[simp] theorem sleep_mode (ms : Nat) (s : State) : (sleep ms s).mode = s.mode := rfl
@[simp] theorem sleep_begun (ms : Nat) (s : State) : (sleep ms s).begun = s.begun := rfl
@[simp] theorem sleep_seq (ms : Nat) (s : State) : (sleep ms s).seq = s.seq.tick := rfl
@[simp] theorem sleep_fault (ms : Nat) (s : State) : (sleep ms s).fault = s.fault := rfl
theorem sleep_regs (ms : Nat) (s : State) : (sleep ms s).regs = s.moved.regs := rfl
theorem sleep_conv (ms : Nat) (s : State) : (sleep ms s).conv = s.moved.conv := rfl
@[simp] theorem sleep_age (ms : Nat) (s : State) : (sleep ms s).age = s.age + (ms + s.draw.ms) := rfl
@[simp] theorem sleep_now (ms : Nat) (s : State) : (sleep ms s).now = (s.now + (ms + s.draw.ms)) % 2 ^ s.cfg.timeWidth := rfl
@[simp] theorem sleep_cfg (ms : Nat) (s : State) : (sleep ms s).cfg = s.cfg := rfl
@[simp] theorem sleep_inputs (ms : Nat) (s : State) : (sleep ms s).inputs = s.inputs := rfl
@[simp] theorem sleep_outcome (ms : Nat) (s : State) : (sleep ms s).outcome = s.outcome := rfl
@[simp] theorem sleep_script (ms : Nat) (s : State) : (sleep ms s).script = s.script := rfl
@[simp] theorem sleep_drawn (ms : Nat) (s : State) : (sleep ms s).drawn = s.drawn + 1 := rfl
@[simp] theorem sleep_wire (ms : Nat) (s : State) : (sleep ms s).wire = s.wire ++ [.slept ms] := rfl

@[simp] theorem fdcReset_mode (s : State) : (fdcReset s).mode = none := rfl
@[simp] theorem fdcReset_begun (s : State) : (fdcReset s).begun = false := rfl
@[simp] theorem fdcReset_seq (s : State) : (fdcReset s).seq = .idle := rfl
@[simp] theorem fdcReset_fault (s : State) : (fdcReset s).fault = none := rfl
@[simp] theorem fdcReset_regs (s : State) : (fdcReset s).regs = s.regs := rfl
@[simp] theorem fdcReset_conv (s : State) : (fdcReset s).conv = s.conv := rfl
@[simp] theorem fdcReset_age (s : State) : (fdcReset s).age = s.age := rfl
@[simp] theorem fdcReset_now (s : State) : (fdcReset s).now = s.now := rfl
@[simp] theorem fdcReset_cfg (s : State) : (fdcReset s).cfg = s.cfg := rfl
@[simp] theorem fdcReset_inputs (s : State) : (fdcReset s).inputs = s.inputs := rfl
@[simp] theorem fdcReset_outcome (s : State) : (fdcReset s).outcome = none := rfl
@[simp] theorem fdcReset_script (s : State) : (fdcReset s).script = s.script := rfl
@[simp] theorem fdcReset_drawn (s : State) : (fdcReset s).drawn = s.drawn := rfl
@[simp] theorem fdcReset_wire (s : State) : (fdcReset s).wire = s.wire := rfl

@[simp] theorem chipReset_mode (s : State) : (chipReset s).mode = s.mode := rfl
@[simp] theorem chipReset_begun (s : State) : (chipReset s).begun = s.begun := rfl
@[simp] theorem chipReset_seq (s : State) : (chipReset s).seq = s.seq := rfl
@[simp] theorem chipReset_fault (s : State) : (chipReset s).fault = s.fault := rfl
@[simp] theorem chipReset_regs (s : State) : (chipReset s).regs = [] := rfl
@[simp] theorem chipReset_conv (s : State) : (chipReset s).conv = .idle := rfl
@[simp] theorem chipReset_age (s : State) : (chipReset s).age = 0 := rfl
@[simp] theorem chipReset_now (s : State) : (chipReset s).now = s.now := rfl
@[simp] theorem chipReset_cfg (s : State) : (chipReset s).cfg = s.cfg := rfl
@[simp] theorem chipReset_inputs (s : State) : (chipReset s).inputs = s.inputs := rfl
@[simp] theorem chipReset_outcome (s : State) : (chipReset s).outcome = s.outcome := rfl
@[simp] theorem chipReset_script (s : State) : (chipReset s).script = s.script := rfl
@[simp] theorem chipReset_drawn (s : State) : (chipReset s).drawn = s.drawn := rfl
@[simp] theorem chipReset_wire (s : State) : (chipReset s).wire = s.wire := rfl

@[simp] theorem waitForHost_mode (s : State) : (waitForHost s).mode = s.mode := rfl
@[simp] theorem waitForHost_begun (s : State) : (waitForHost s).begun = s.begun := rfl
@[simp] theorem waitForHost_seq (s : State) : (waitForHost s).seq = s.seq := rfl
@[simp] theorem waitForHost_fault (s : State) : (waitForHost s).fault = s.fault := rfl
theorem waitForHost_regs (s : State) : (waitForHost s).regs = s.moved.regs := rfl
theorem waitForHost_conv (s : State) : (waitForHost s).conv = s.moved.conv := rfl
@[simp] theorem waitForHost_age (s : State) : (waitForHost s).age = s.age + s.draw.ms := rfl
@[simp] theorem waitForHost_now (s : State) : (waitForHost s).now = (s.now + s.draw.ms) % 2 ^ s.cfg.timeWidth := rfl
@[simp] theorem waitForHost_cfg (s : State) : (waitForHost s).cfg = s.cfg := rfl
@[simp] theorem waitForHost_inputs (s : State) : (waitForHost s).inputs = s.inputs := rfl
@[simp] theorem waitForHost_outcome (s : State) : (waitForHost s).outcome = s.outcome := rfl
@[simp] theorem waitForHost_script (s : State) : (waitForHost s).script = s.script := rfl
@[simp] theorem waitForHost_drawn (s : State) : (waitForHost s).drawn = s.drawn + 1 := rfl
@[simp] theorem waitForHost_wire (s : State) : (waitForHost s).wire = s.wire := rfl

/-! Writes that reach the chip touch its registers and conversion state only. -/

@[simp] theorem State.stored_mode (d : Draw) (out : List Byte) (s : State) : (s.stored d out).mode = s.mode := by
  unfold State.stored; split <;> [skip; rfl]; split <;> rfl
@[simp] theorem State.stored_begun (d : Draw) (out : List Byte) (s : State) : (s.stored d out).begun = s.begun := by
  unfold State.stored; split <;> [skip; rfl]; split <;> rfl
@[simp] theorem State.stored_seq (d : Draw) (out : List Byte) (s : State) : (s.stored d out).seq = s.seq := by
  unfold State.stored; split <;> [skip; rfl]; split <;> rfl
@[simp] theorem State.stored_fault (d : Draw) (out : List Byte) (s : State) : (s.stored d out).fault = s.fault := by
  unfold State.stored; split <;> [skip; rfl]; split <;> rfl
@[simp] theorem State.stored_now (d : Draw) (out : List Byte) (s : State) : (s.stored d out).now = s.now := by
  unfold State.stored; split <;> [skip; rfl]; split <;> rfl
@[simp] theorem State.stored_cfg (d : Draw) (out : List Byte) (s : State) : (s.stored d out).cfg = s.cfg := by
  unfold State.stored; split <;> [skip; rfl]; split <;> rfl
@[simp] theorem State.stored_inputs (d : Draw) (out : List Byte) (s : State) : (s.stored d out).inputs = s.inputs := by
  unfold State.stored; split <;> [skip; rfl]; split <;> rfl
@[simp] theorem State.stored_outcome (d : Draw) (out : List Byte) (s : State) : (s.stored d out).outcome = s.outcome := by
  unfold State.stored; split <;> [skip; rfl]; split <;> rfl
@[simp] theorem State.stored_script (d : Draw) (out : List Byte) (s : State) : (s.stored d out).script = s.script := by
  unfold State.stored; split <;> [skip; rfl]; split <;> rfl
@[simp] theorem State.stored_drawn (d : Draw) (out : List Byte) (s : State) : (s.stored d out).drawn = s.drawn := by
  unfold State.stored; split <;> [skip; rfl]; split <;> rfl
@[simp] theorem State.stored_wire (d : Draw) (out : List Byte) (s : State) : (s.stored d out).wire = s.wire := by
  unfold State.stored; split <;> [skip; rfl]; split <;> rfl

@[simp] theorem State.tornBy_mode (d : Draw) (out : List Byte) (s : State) : (s.tornBy d out).mode = s.mode := by
  unfold State.tornBy; split <;> [skip; rfl]; split <;> rfl
@[simp] theorem State.tornBy_begun (d : Draw) (out : List Byte) (s : State) : (s.tornBy d out).begun = s.begun := by
  unfold State.tornBy; split <;> [skip; rfl]; split <;> rfl
@[simp] theorem State.tornBy_seq (d : Draw) (out : List Byte) (s : State) : (s.tornBy d out).seq = s.seq := by
  unfold State.tornBy; split <;> [skip; rfl]; split <;> rfl
@[simp] theorem State.tornBy_fault (d : Draw) (out : List Byte) (s : State) : (s.tornBy d out).fault = s.fault := by
  unfold State.tornBy; split <;> [skip; rfl]; split <;> rfl
@[simp] theorem State.tornBy_now (d : Draw) (out : List Byte) (s : State) : (s.tornBy d out).now = s.now := by
  unfold State.tornBy; split <;> [skip; rfl]; split <;> rfl
@[simp] theorem State.tornBy_cfg (d : Draw) (out : List Byte) (s : State) : (s.tornBy d out).cfg = s.cfg := by
  unfold State.tornBy; split <;> [skip; rfl]; split <;> rfl
@[simp] theorem State.tornBy_inputs (d : Draw) (out : List Byte) (s : State) : (s.tornBy d out).inputs = s.inputs := by
  unfold State.tornBy; split <;> [skip; rfl]; split <;> rfl
@[simp] theorem State.tornBy_outcome (d : Draw) (out : List Byte) (s : State) : (s.tornBy d out).outcome = s.outcome := by
  unfold State.tornBy; split <;> [skip; rfl]; split <;> rfl
@[simp] theorem State.tornBy_script (d : Draw) (out : List Byte) (s : State) : (s.tornBy d out).script = s.script := by
  unfold State.tornBy; split <;> [skip; rfl]; split <;> rfl
@[simp] theorem State.tornBy_drawn (d : Draw) (out : List Byte) (s : State) : (s.tornBy d out).drawn = s.drawn := by
  unfold State.tornBy; split <;> [skip; rfl]; split <;> rfl
@[simp] theorem State.tornBy_wire (d : Draw) (out : List Byte) (s : State) : (s.tornBy d out).wire = s.wire := by
  unfold State.tornBy; split <;> [skip; rfl]; split <;> rfl

/-! An exchange, in terms of the chip's and the time source's moves. -/

@[simp] theorem State.exchanged_mode (out received : List Byte) (s : State) : (s.exchanged out received).mode = s.mode := by
  simp [State.exchanged]
@[simp] theorem State.exchanged_begun (out received : List Byte) (s : State) : (s.exchanged out received).begun = s.begun := by
  simp [State.exchanged]
@[simp] theorem State.exchanged_seq (out received : List Byte) (s : State) : (s.exchanged out received).seq = s.seq.exchanged (readBytes out received) := by
  simp [State.exchanged]
@[simp] theorem State.exchanged_fault (out received : List Byte) (s : State) : (s.exchanged out received).fault = s.fault := by
  simp [State.exchanged]
theorem State.exchanged_regs (out received : List Byte) (s : State) : (s.exchanged out received).regs = ((s.moved.pass s.draw.ms).stored s.draw out).regs := by
  simp [State.exchanged]
theorem State.exchanged_conv (out received : List Byte) (s : State) : (s.exchanged out received).conv = ((s.moved.pass s.draw.ms).stored s.draw out).conv := by
  simp [State.exchanged]
theorem State.exchanged_age (out received : List Byte) (s : State) : (s.exchanged out received).age = ((s.moved.pass s.draw.ms).stored s.draw out).age := by
  simp [State.exchanged]
@[simp] theorem State.exchanged_now (out received : List Byte) (s : State) : (s.exchanged out received).now = (s.now + s.draw.ms) % 2 ^ s.cfg.timeWidth := by
  simp [State.exchanged]
@[simp] theorem State.exchanged_cfg (out received : List Byte) (s : State) : (s.exchanged out received).cfg = s.cfg := by
  simp [State.exchanged]
@[simp] theorem State.exchanged_inputs (out received : List Byte) (s : State) : (s.exchanged out received).inputs = s.inputs := by
  simp [State.exchanged]
@[simp] theorem State.exchanged_outcome (out received : List Byte) (s : State) : (s.exchanged out received).outcome = s.outcome := by
  simp [State.exchanged]
@[simp] theorem State.exchanged_script (out received : List Byte) (s : State) : (s.exchanged out received).script = s.script := by
  simp [State.exchanged]
@[simp] theorem State.exchanged_drawn (out received : List Byte) (s : State) : (s.exchanged out received).drawn = s.drawn + 1 := by
  simp [State.exchanged]
@[simp] theorem State.exchanged_wire (out received : List Byte) (s : State) : (s.exchanged out received).wire = s.wire ++ [.exchanged out received] := by
  simp [State.exchanged]

@[simp] theorem State.lostFrame_mode (out : List Byte) (s : State) : (s.lostFrame out).mode = s.mode := by
  simp [State.lostFrame]
@[simp] theorem State.lostFrame_begun (out : List Byte) (s : State) : (s.lostFrame out).begun = s.begun := by
  simp [State.lostFrame]
@[simp] theorem State.lostFrame_seq (out : List Byte) (s : State) : (s.lostFrame out).seq = s.seq := by
  simp [State.lostFrame]
@[simp] theorem State.lostFrame_fault (out : List Byte) (s : State) : (s.lostFrame out).fault = s.fault := by
  simp [State.lostFrame]
theorem State.lostFrame_regs (out : List Byte) (s : State) : (s.lostFrame out).regs = ((s.moved.pass s.draw.ms).tornBy s.draw out).regs := by
  simp [State.lostFrame]
theorem State.lostFrame_conv (out : List Byte) (s : State) : (s.lostFrame out).conv = ((s.moved.pass s.draw.ms).tornBy s.draw out).conv := by
  simp [State.lostFrame]
theorem State.lostFrame_age (out : List Byte) (s : State) : (s.lostFrame out).age = ((s.moved.pass s.draw.ms).tornBy s.draw out).age := by
  simp [State.lostFrame]
@[simp] theorem State.lostFrame_now (out : List Byte) (s : State) : (s.lostFrame out).now = (s.now + s.draw.ms) % 2 ^ s.cfg.timeWidth := by
  simp [State.lostFrame]
@[simp] theorem State.lostFrame_cfg (out : List Byte) (s : State) : (s.lostFrame out).cfg = s.cfg := by
  simp [State.lostFrame]
@[simp] theorem State.lostFrame_inputs (out : List Byte) (s : State) : (s.lostFrame out).inputs = s.inputs := by
  simp [State.lostFrame]
@[simp] theorem State.lostFrame_outcome (out : List Byte) (s : State) : (s.lostFrame out).outcome = s.outcome := by
  simp [State.lostFrame]
@[simp] theorem State.lostFrame_script (out : List Byte) (s : State) : (s.lostFrame out).script = s.script := by
  simp [State.lostFrame]
@[simp] theorem State.lostFrame_drawn (out : List Byte) (s : State) : (s.lostFrame out).drawn = s.drawn + 1 := by
  simp [State.lostFrame]
@[simp] theorem State.lostFrame_wire (out : List Byte) (s : State) : (s.lostFrame out).wire = s.wire ++ [.failed out] := by
  simp [State.lostFrame]

end Sys2Proof.Machine
end

