-- ==== Sys2Proof/Laws/Memory.lean ====
section
/-! SUPPORT. The register file: reads after writes, and that every operation on it keeps the canonical form. -/

namespace Sys2Proof.Machine

/-! ### Read after write -/

theorem Mem.lookup_insert_same (a : Nat) (v : Byte) (m : List Host.Cell) :
    Mem.lookup (Mem.insert a v m) a = some v := by
  induction m with
  | nil => simp [Mem.insert, Mem.lookup]
  | cons p m ih =>
    obtain ⟨b, w⟩ := p
    simp only [Mem.insert]
    split
    · simp [Mem.lookup]
    · split
      · simp [Mem.lookup]
      · simp [Mem.lookup, *]

theorem Mem.lookup_insert_other {a b : Nat} (h : a ≠ b) (v : Byte) (m : List Host.Cell) :
    Mem.lookup (Mem.insert b v m) a = Mem.lookup m a := by
  induction m with
  | nil => simp [Mem.insert, Mem.lookup, h]
  | cons p m ih =>
    obtain ⟨c, w⟩ := p
    simp only [Mem.insert]
    split
    · simp [Mem.lookup, h]
    · split
      · subst c; simp [Mem.lookup, h]
      · simp [Mem.lookup, ih]

theorem Mem.lookup_erase_same (a : Nat) (m : List Host.Cell) : Mem.lookup (Mem.erase a m) a = none := by
  induction m with
  | nil => rfl
  | cons p m ih =>
    obtain ⟨b, w⟩ := p
    by_cases h : b = a
    · simpa [Mem.erase, h] using ih
    · have h' : ¬ a = b := fun e => h e.symm
      simpa [Mem.erase, Mem.lookup, h, h'] using ih

theorem Mem.lookup_erase_other {a b : Nat} (h : a ≠ b) (m : List Host.Cell) :
    Mem.lookup (Mem.erase b m) a = Mem.lookup m a := by
  induction m with
  | nil => rfl
  | cons p m ih =>
    obtain ⟨c, w⟩ := p
    by_cases hc : c = b
    · have : ¬ a = c := fun e => h (e.trans hc)
      simpa [Mem.erase, Mem.lookup, hc, h] using ih
    · by_cases ha : a = c
      · simp [Mem.erase, Mem.lookup, hc, ha]
      · simpa [Mem.erase, Mem.lookup, hc, ha] using ih

@[simp] theorem Mem.read_write_same (c : Config) (m : List Host.Cell) (a : Nat) (v : Byte) :
    Mem.read c (Mem.write c m a v) a = v := by
  unfold Mem.write
  split
  · simp [Mem.read, Mem.lookup_erase_same, *]
  · simp [Mem.read, Mem.lookup_insert_same]

theorem Mem.read_write_other (c : Config) (m : List Host.Cell) {a b : Nat} (h : a ≠ b) (v : Byte) :
    Mem.read c (Mem.write c m b v) a = Mem.read c m a := by
  unfold Mem.write
  split
  · simp [Mem.read, Mem.lookup_erase_other h]
  · simp [Mem.read, Mem.lookup_insert_other h]

/-! ### The canonical form -/

theorem Mem.wf_iff (c : Config) (m : List Host.Cell) :
    Mem.wf c m = true ↔
      m.Pairwise (fun p q => p.1 < q.1) ∧ ∀ p ∈ m, p.1 < 16 ∧ p.2 ≠ unlisted c p.1 := by
  simp [Mem.wf, List.all_eq_true]

theorem Mem.wf_nil (c : Config) : Mem.wf c [] = true := by simp [Mem.wf]

theorem Mem.mem_insert {a : Nat} {v : Byte} {m : List Host.Cell} {p : Host.Cell}
    (h : p ∈ Mem.insert a v m) : p = (a, v) ∨ p ∈ m := by
  induction m with
  | nil => simpa [Mem.insert] using h
  | cons q m ih =>
    obtain ⟨b, w⟩ := q
    simp only [Mem.insert] at h
    split at h
    · simpa using h
    · split at h
      · rcases List.mem_cons.1 h with h | h
        · exact .inl h
        · exact .inr (List.mem_cons_of_mem _ h)
      · rcases List.mem_cons.1 h with h | h
        · exact .inr (by simp [h])
        · exact (ih h).imp id (List.mem_cons_of_mem _)

theorem Mem.insert_rising {a : Nat} {v : Byte} {m : List Host.Cell}
    (h : m.Pairwise (fun p q => p.1 < q.1)) : (Mem.insert a v m).Pairwise (fun p q => p.1 < q.1) := by
  induction m with
  | nil => simp [Mem.insert]
  | cons q m ih =>
    obtain ⟨b, w⟩ := q
    obtain ⟨hq, hm⟩ := List.pairwise_cons.1 h
    simp only [Mem.insert]
    split
    · rename_i hab
      refine List.pairwise_cons.2 ⟨fun p hp => ?_, h⟩
      rcases List.mem_cons.1 hp with rfl | hp
      · exact hab
      · exact lt_trans hab (hq p hp)
    · split
      · rename_i hab
        subst hab
        exact List.pairwise_cons.2 ⟨hq, hm⟩
      · refine List.pairwise_cons.2 ⟨fun p hp => ?_, ih hm⟩
        rcases Mem.mem_insert hp with rfl | hp
        · simp only; omega
        · exact hq p hp

theorem Mem.write_wf {c : Config} {m : List Host.Cell} (h : Mem.wf c m = true) {a : Nat} (ha : a < 16) (v : Byte) :
    Mem.wf c (Mem.write c m a v) = true := by
  obtain ⟨hs, hv⟩ := (Mem.wf_iff c m).1 h
  refine (Mem.wf_iff c _).2 ?_
  unfold Mem.write
  split
  · exact ⟨hs.filter _, fun p hp => hv p (List.mem_filter.1 hp).1⟩
  · rename_i hne
    refine ⟨Mem.insert_rising hs, fun p hp => ?_⟩
    rcases Mem.mem_insert hp with rfl | hp
    · exact ⟨ha, hne⟩
    · exact hv p hp

theorem regAddr_lt (c : Config) (r : Reg) : regAddr c r < 16 := (regEntry c.reg r).isLt

theorem clearOneShot_wf {c : Config} {m : List Host.Cell} (h : Mem.wf c m = true) :
    Mem.wf c (clearOneShot c m) = true := Mem.write_wf h (regAddr_lt c _) _

theorem applyUpdates_wf {c : Config} (updates : List (BitVec 4 × Byte)) {m : List Host.Cell} (h : Mem.wf c m = true) :
    Mem.wf c (applyUpdates c updates m) = true := by
  induction updates generalizing m with
  | nil => exact h
  | cons u us ih =>
    refine ih ?_
    dsimp only
    split
    · exact Mem.write_wf h u.1.isLt u.2
    · exact h

theorem referenceResult_wf {c : Config} {m : List Host.Cell} (h : Mem.wf c m = true) :
    Mem.wf c (referenceResult c m) = true :=
  clearOneShot_wf (Mem.write_wf (Mem.write_wf (Mem.write_wf (Mem.write_wf (Mem.write_wf h
    (regAddr_lt c _) _) (regAddr_lt c _) _) (regAddr_lt c _) _) (regAddr_lt c _) _) (regAddr_lt c _) _)

/-- Whatever move the chip makes, its register file stays canonical. -/
theorem chipRegs_wf {c : Config} {m : List Host.Cell} (h : Mem.wf c m = true) (conv : Conv) (age : Nat)
    (move : ChipMove) : Mem.wf c (chipRegs c m conv age move) = true := by
  cases move with
  | act updates clears ends =>
    simp only [chipRegs]
    split
    · exact clearOneShot_wf (applyUpdates_wf updates h)
    · exact applyUpdates_wf updates h
  | reset => exact Mem.wf_nil c
  | reference =>
    simp only [chipRegs]
    split
    · exact referenceResult_wf h
    · exact h

theorem State.moved_wf {s : State} (h : Mem.wf s.cfg s.regs = true) : Mem.wf s.cfg s.moved.regs = true :=
  chipRegs_wf h _ _ _

theorem writtenReg_lt {ab : Byte} {a : Nat} (h : writtenReg ab = some a) : a < 16 := by
  unfold writtenReg at h
  split at h
  · rename_i hc; simp at h hc; omega
  · cases h

theorem State.stored_wf {s : State} (h : Mem.wf s.cfg s.regs = true) (d : Draw) (out : List Byte) :
    Mem.wf s.cfg (s.stored d out).regs = true := by
  unfold State.stored
  split
  · split
    · rename_i ha; exact Mem.write_wf h (writtenReg_lt ha) _
    · exact h
  · exact h

theorem State.tornBy_wf {s : State} (h : Mem.wf s.cfg s.regs = true) (d : Draw) (out : List Byte) :
    Mem.wf s.cfg (s.tornBy d out).regs = true := by
  unfold State.tornBy
  split
  · split
    · rename_i ha; exact Mem.write_wf h (writtenReg_lt ha) _
    · exact h
  · exact h

/-! ### Quiet chip -/

/-- A chip that makes no move leaves its registers. -/
theorem State.moved_regs_of_quiet {s : State} (h : quiet s.draw = true) : s.moved.regs = s.regs := by
  rw [State.moved_regs]
  unfold quiet at h
  split at h
  · rename_i hd; simp [hd, chipRegs, applyUpdates]
  · cases h

/-! ### The conversion state -/

theorem restConv_ne (c : Config) (v : Byte) : restConv c v ≠ .oneShot := by
  unfold restConv; split <;> simp

/-- All that the chip's own move does to the conversion (10_state.md R140, R150; 70_reset_and_hazards.md R930): a reset
makes it idle, a pending one-shot conversion may end, else it is as it was. -/
theorem chipConv_cases (c : Config) (m : List Host.Cell) (conv : Conv) (age : Nat) (move : ChipMove) :
    move = .reset ∧ chipConv c m conv age move = .idle ∨
    move ≠ .reset ∧ conv = .oneShot ∧ chipConv c m conv age move = restConv c (Mem.read c m (regAddr c .cr0)) ∨
    move ≠ .reset ∧ chipConv c m conv age move = conv := by
  unfold chipConv
  split
  · simp_all
  · split <;> simp_all

/-- A one-shot conversion begins at no move of the chip's own (70_reset_and_hazards.md R914). -/
theorem chipConv_oneShot {c : Config} {m : List Host.Cell} {conv : Conv} {age : Nat} {move : ChipMove}
    (h : chipConv c m conv age move = .oneShot) : conv = .oneShot := by
  rcases chipConv_cases c m conv age move with ⟨-, hc⟩ | ⟨-, hc, -⟩ | ⟨-, hc⟩
  · rw [hc] at h; cases h
  · exact hc
  · rw [← hc, h]

/-- A CR0 write where no one-shot conversion is pending (10_state.md R121, R140, 70_reset_and_hazards.md R914): 1SHOT
without CMODE, and nothing else, starts one. -/
theorem convAfterWrite_started {c : Config} {old : Conv} (h : old ≠ .oneShot) (v : Byte) (d : Draw) :
    convAfterWrite c old v d = if isTrigger c v then .oneShot else restConv c v := by simp [convAfterWrite, h]

/-- A CR0 write while a one-shot conversion is pending (10_state.md R142): it goes on, or with 1SHOT or CMODE written may
be over. -/
theorem convAfterWrite_pending (c : Config) (v : Byte) (d : Draw) :
    convAfterWrite c .oneShot v d = if staysPending c v d then .oneShot else restConv c v := by simp [convAfterWrite]

/-- A lost CR0 write (log 7): a one-shot conversion is pending after it only if one was before, or if the value left in CR0
starts one; with none pending, CMODE says what the chip does. -/
theorem convAfterLoss_cases (c : Config) (old : Conv) (v : Byte) (d : Draw) :
    convAfterLoss c old v d = .oneShot ∧ (old = .oneShot ∨ isTrigger c v = true) ∨
      convAfterLoss c old v d = restConv c v := by
  unfold convAfterLoss convAfterWrite
  by_cases old = .oneShot <;> cases d.pends <;> cases isTrigger c v <;> cases staysPending c v d <;> simp_all

/-- A write frame adds nothing to the bytes read (10_state.md R102, 40_register_access.md R420). -/
@[simp] theorem readBytes_write (a d : Byte) (received : List Byte) : readBytes [a ||| 0x80#8, d] received = [] := by
  simp [readBytes]

/-- A read frame adds the bytes after the one under its address (30_encoding.md R301). -/
@[simp] theorem readBytes_read (a : Byte) (rest received : List Byte) :
    readBytes ((a &&& 0x7F#8) :: rest) received = received.drop 1 := by
  simp [readBytes]

end Sys2Proof.Machine
end

