-- ==== Sys2Proof/Laws/Config.lean ====
section
/-! SUPPORT. What a well-formed parameter choice gives: different registers at different addresses, multi-byte registers
contiguous, CR0's named bits apart. -/

namespace Sys2Proof.Machine

/-- A register's place in the order of 10_state.md R120. -/
def regIndex : Reg → Fin 16
  | .cr0 => 0 | .cr1 => 1 | .mask => 2 | .cjhf => 3 | .cjlf => 4 | .lthfth => 5 | .lthftl => 6 | .ltlfth => 7
  | .ltlftl => 8 | .cjto => 9 | .cjth => 10 | .cjtl => 11 | .ltcbh => 12 | .ltcbm => 13 | .ltcbl => 14 | .sr => 15

theorem regIndex_injective {r r' : Reg} (h : regIndex r = regIndex r') : r = r' := by
  revert h; cases r <;> cases r' <;> decide

theorem regEntry_eq_getElem {α : Type} (t : RegTable α) (r : Reg) :
    regEntry t r = t.toList[(regIndex r).val]'(regIndex r).isLt := by
  cases r <;> rfl

theorem Config.wellFormed_nodup {c : Config} (h : c.wellFormed = true) : c.reg.toList.Nodup := by
  simp only [Config.wellFormed, Bool.and_eq_true, decide_eq_true_eq] at h
  tauto

/-- Different registers have different addresses. -/
theorem regAddr_inj {c : Config} (h : c.wellFormed = true) {r r' : Reg} : regAddr c r = regAddr c r' ↔ r = r' := by
  refine ⟨fun he => ?_, fun he => he ▸ rfl⟩
  have he' : regEntry c.reg r = regEntry c.reg r' := BitVec.eq_of_toNat_eq he
  rw [regEntry_eq_getElem, regEntry_eq_getElem] at he'
  exact regIndex_injective (Fin.ext ((List.Nodup.getElem_inj_iff (Config.wellFormed_nodup h)).1 he'))

/-- A register's address reads, unlisted, as the register's chip reset value. -/
theorem unlisted_regAddr {c : Config} (h : c.wellFormed = true) (r : Reg) :
    unlisted c (regAddr c r) = regEntry c.chipReset r := by
  have hex : ∃ r', allRegs.find? (fun r' => regAddr c r' == regAddr c r) = some r' := by
    rw [← Option.isSome_iff_exists, List.find?_isSome]
    exact ⟨r, by cases r <;> simp [allRegs], by simp⟩
  obtain ⟨r', hr'⟩ := hex
  have heq : r' = r := (regAddr_inj h).1 (by simpa using List.find?_some hr')
  simp [unlisted, hr', heq]

/-- A register that is not the chip's own does not stand at the address of one. -/
theorem chipOwns_regAddr {c : Config} (h : c.wellFormed = true) {r : Reg} (hr : r ∉ chipOwned) :
    chipOwns c (regAddr c r) = false := by
  rw [chipOwns, List.any_eq_false]
  intro r' hr' he
  exact hr ((regAddr_inj h).1 (by simpa using he) ▸ hr')

/-- Such a register keeps the byte written to it. -/
theorem valueKept_named {c : Config} (h : c.wellFormed = true) {r : Reg} (hr : r ∉ chipOwned) (d : Draw) (v : Byte) :
    valueKept c d (regAddr c r) v = v := by simp [valueKept, chipOwns_regAddr h hr]

theorem Config.wellFormed_pairs {c : Config} (h : c.wellFormed = true) :
    regAddr c .cjtl = regAddr c .cjth + 1 ∧ regAddr c .ltcbm = regAddr c .ltcbh + 1 ∧
      regAddr c .ltcbl = regAddr c .ltcbh + 2 := by
  simp only [Config.wellFormed, Bool.and_eq_true, decide_eq_true_eq] at h
  simp only [regAddr, regEntry]
  tauto

theorem Config.wellFormed_time {c : Config} (h : c.wellFormed = true) : 1 ≤ c.pollMs ∧ 8 ≤ c.timeWidth := by
  simp only [Config.wellFormed, Bool.and_eq_true, decide_eq_true_eq] at h
  tauto

theorem Config.wellFormed_bits {c : Config} (h : c.wellFormed = true) :
    c.bitCmode ≠ c.bitOneShot ∧ c.bitCmode ≠ c.bitOcfault0 ∧ c.bitOneShot ≠ c.bitOcfault0 ∧ c.bitCmode ≠ 0 ∧
      c.bitOneShot ≠ 0 ∧ c.bitOcfault0 ≠ 0 := by
  simp only [Config.wellFormed, Bool.and_eq_true, decide_eq_true_eq] at h
  have hn : [c.bitCmode, c.bitOneShot, c.bitOcfault0, 0].Nodup := by tauto
  simp only [List.nodup_cons, List.mem_cons, List.not_mem_nil, or_false, not_or] at hn
  tauto

/-- No address is both CR0's and one of the chip's own registers. -/
theorem chipOwns_cr0 {c : Config} (h : c.wellFormed = true) : chipOwns c (regAddr c .cr0) = false :=
  chipOwns_regAddr h (by decide)

/-- The chip's updates leave every register that is not its own. -/
theorem applyUpdates_read {c : Config} {a : Nat} (ha : chipOwns c a = false) (updates : List (BitVec 4 × Byte))
    (m : List Host.Cell) : Mem.read c (applyUpdates c updates m) a = Mem.read c m a := by
  induction updates generalizing m with
  | nil => rfl
  | cons u us ih =>
    have hstep : applyUpdates c (u :: us) m =
        applyUpdates c us (if chipOwns c u.1.toNat then Mem.write c m u.1.toNat u.2 else m) := rfl
    rw [hstep, ih]
    split
    · rename_i hu
      exact Mem.read_write_other c m (fun e => by rw [e, hu] at ha; cases ha) u.2
    · rfl

/-- The reference chip's results leave every register that is not its own, but for 1SHOT. -/
theorem referenceResult_read {c : Config} {a : Nat} (ha : chipOwns c a = false) (h0 : a ≠ regAddr c .cr0)
    (m : List Host.Cell) : Mem.read c (referenceResult c m) a = Mem.read c m a := by
  have hne : ∀ r ∈ chipOwned, a ≠ regAddr c r := fun r hr e => by
    rw [chipOwns, List.any_eq_false] at ha
    exact ha r hr (by simpa using e.symm)
  simp only [referenceResult, clearOneShot]
  rw [Mem.read_write_other c _ h0, Mem.read_write_other c _ (hne .ltcbl (by decide)),
    Mem.read_write_other c _ (hne .ltcbm (by decide)), Mem.read_write_other c _ (hne .ltcbh (by decide)),
    Mem.read_write_other c _ (hne .cjtl (by decide)), Mem.read_write_other c _ (hne .cjth (by decide))]

/-- A chip that is not reset writes no register on its own but its results, SR and CR0.1SHOT (10_state.md R141, R150). -/
theorem State.moved_read_of_noReset {s : State} (h : noReset s.draw = true) {a : Nat} (ha : chipOwns s.cfg a = false)
    (h0 : a ≠ regAddr s.cfg .cr0) : Mem.read s.cfg s.moved.regs a = Mem.read s.cfg s.regs a := by
  rw [State.moved_regs]
  cases hd : s.draw.chip with
  | act updates clears ends =>
    cases clears <;> simp [chipRegs, clearOneShot, Mem.read_write_other _ _ h0, applyUpdates_read ha]
  | reset => simp [noReset, hd] at h
  | reference =>
    simp only [chipRegs]
    split
    · exact referenceResult_read ha h0 _
    · rfl

end Sys2Proof.Machine
end

