-- ==== Sys2Proof/Laws/Run.lean ====
section
/-! SUPPORT. One lemma for each shared operation that says everything it can do: the transport's reply, an exchange,
the framer, admission. -/

namespace Sys2Proof.Machine

/-- The state a piece of a command ends in. -/
def Run.state {α : Type} : Run α → State
  | .done _ s => s
  | .raised s => s
  | .waiting s => s

@[simp] theorem Run.state_done {α : Type} (a : α) (s : State) : (Run.done a s).state = s := rfl
@[simp] theorem Run.state_raised {α : Type} (s : State) : (Run.raised s : Run α).state = s := rfl
@[simp] theorem Run.state_waiting {α : Type} (s : State) : (Run.waiting s : Run α).state = s := rfl

@[simp] theorem Run.andThen_done {α β : Type} (a : α) (s : State) (f : α → State → Run β) :
    (Run.done a s).andThen f = f a s := rfl
@[simp] theorem Run.andThen_raised {α β : Type} (s : State) (f : α → State → Run β) :
    (Run.raised s).andThen f = .raised s := rfl
@[simp] theorem Run.andThen_waiting {α β : Type} (s : State) (f : α → State → Run β) :
    (Run.waiting s).andThen f = .waiting s := rfl

theorem Run.andThen_assoc {α β γ : Type} (r : Run α) (f : α → State → Run β) (g : β → State → Run γ) :
    (r.andThen f).andThen g = r.andThen fun a s => (f a s).andThen g := by
  cases r <;> rfl

@[simp] theorem finish_done (r : Result) (s : State) :
    finish (.done r s) = { s with seq := .idle, outcome := some (.result r) } := rfl
@[simp] theorem finish_raised (s : State) : finish (.raised s) = s := rfl
@[simp] theorem finish_waiting (s : State) : finish (.waiting s) = s := rfl

/-! ### The transport -/

theorem wiredReply_length (c : Config) (m : List Host.Cell) (x y : Byte) (out : List Byte) :
    (wiredReply c m x y out).length = out.length := by
  cases out with
  | nil => rfl
  | cons ab rest => simp only [wiredReply]; split <;> simp

/-- A reply is as long as the frame (40_register_access.md R401). -/
theorem State.reply_length {s : State} {out received : List Byte} (h : s.reply out = some received) :
    received.length = out.length := by
  unfold State.reply at h
  split at h
  · cases h; exact wiredReply_length ..
  · split at h
    · cases h; assumption
    · cases h
  · cases h

/-- A transport that answers gives a reply. -/
theorem State.reply_of_answers {s : State} {out : List Byte} (h : answers s.draw out.length = true) :
    ∃ received, s.reply out = some received := by
  unfold answers at h
  unfold State.reply
  split at h
  · simp [*]
  · simp_all
  · cases h

/-- A reply to a two-byte frame has two bytes. -/
theorem State.reply_two {s : State} {a b : Byte} {received : List Byte} (h : s.reply [a, b] = some received) :
    ∃ x y, received = [x, y] := List.length_eq_two.1 (State.reply_length h)

/-- An exchange succeeds with the reply or raises TransportFail (R401, 60_exceptions.md R820). -/
theorem exchange_cases (out : List Byte) (s : State) :
    (∃ received, s.reply out = some received ∧ exchange out s = .done received (s.exchanged out received)) ∨
    (s.reply out = none ∧
      exchange out s = .raised (raise (.transportFail out (s.seq.exchanges + 1)) (s.lostFrame out))) := by
  unfold exchange
  cases s.reply out <;> simp

theorem exchange_of_reply {s : State} {out received : List Byte} (h : s.reply out = some received) :
    exchange out s = .done received (s.exchanged out received) := by simp [exchange, h]

theorem exchange_of_no_reply {s : State} {out : List Byte} (h : s.reply out = none) :
    exchange out s = .raised (raise (.transportFail out (s.seq.exchanges + 1)) (s.lostFrame out)) := by
  simp [exchange, h]

/-! ### The framer -/

/-- The frame `ReadReg(a, n)` sends (30_encoding.md R301). -/
def readFrame (c : Config) (a : Byte) (n : Nat) : List Byte := (a &&& 0x7F#8) :: List.replicate n c.dummy

/-- The frame `WriteReg(a, d)` sends (30_encoding.md R302). -/
def writeFrame (a d : Byte) : List Byte := [a ||| 0x80#8, d]

/-- `ReadReg` (R410): an illegal frame raises before any exchange; else one exchange, its data bytes or TransportFail. -/
theorem readReg_cases (a : Byte) (n : Nat) (s : State) :
    ((readFits (a &&& 0x7F#8) n && decide (n ≤ 3)) = false ∧
      readReg a n s = .raised (raise (.illegalFrame (readFrame s.cfg a n)) s)) ∨
    ((readFits (a &&& 0x7F#8) n && decide (n ≤ 3)) = true ∧
      ((∃ received, s.reply (readFrame s.cfg a n) = some received ∧
          readReg a n s = .done (received.drop 1) (s.exchanged (readFrame s.cfg a n) received)) ∨
       (s.reply (readFrame s.cfg a n) = none ∧
          readReg a n s = .raised (raise (.transportFail (readFrame s.cfg a n) (s.seq.exchanges + 1))
            (s.lostFrame (readFrame s.cfg a n)))))) := by
  unfold readReg
  cases hc : readFits (a &&& 0x7F#8) n && decide (n ≤ 3) with
  | false => exact .inl ⟨rfl, by simp [readFrame]⟩
  | true =>
    refine .inr ⟨rfl, ?_⟩
    simp only [if_true]
    rcases exchange_cases (readFrame s.cfg a n) s with ⟨r, hr, he⟩ | ⟨hr, he⟩
    · exact .inl ⟨r, hr, by simpa [readFrame] using congrArg (Run.andThen · _) he⟩
    · exact .inr ⟨hr, by simpa [readFrame] using congrArg (Run.andThen · _) he⟩

/-- `WriteReg` (R420): an illegal frame raises before the exchange; else one exchange or TransportFail. -/
theorem writeReg_cases (a d : Byte) (s : State) :
    (16 ≤ (a &&& 0x7F#8).toNat ∧ writeReg a d s = .raised (raise (.illegalFrame (writeFrame a d)) s)) ∨
    ((a &&& 0x7F#8).toNat < 16 ∧
      ((∃ received, s.reply (writeFrame a d) = some received ∧
          writeReg a d s = .done () (s.exchanged (writeFrame a d) received)) ∨
       (s.reply (writeFrame a d) = none ∧
          writeReg a d s = .raised (raise (.transportFail (writeFrame a d) (s.seq.exchanges + 1))
            (s.lostFrame (writeFrame a d)))))) := by
  have ha : ((a ||| 0x80#8) &&& 0x7F#8) = a &&& 0x7F#8 := by
    revert a; decide
  unfold writeReg
  simp only [ha]
  by_cases hlt : (a &&& 0x7F#8).toNat < 16
  · refine .inr ⟨hlt, ?_⟩
    rw [if_pos (by omega)]
    rcases exchange_cases (writeFrame a d) s with ⟨r, hr, he⟩ | ⟨hr, he⟩
    · exact .inl ⟨r, hr, by simpa [writeFrame] using congrArg (Run.andThen · _) he⟩
    · exact .inr ⟨hr, by simpa [writeFrame] using congrArg (Run.andThen · _) he⟩
  · exact .inl ⟨by omega, by rw [if_neg (by omega)]; rfl⟩

/-- The address byte of a named register is below 0x10, so bit 7 of it is clear and the frame is legal. -/
theorem regByte_lt (c : Config) (r : Reg) : (regByte c r).toNat < 16 := by
  have h := (regEntry c.reg r).isLt
  simp only [regByte, BitVec.toNat_setWidth]
  omega

theorem regByte_masked (c : Config) (r : Reg) : regByte c r &&& 0x7F#8 = regByte c r := by
  unfold regByte
  generalize regEntry c.reg r = a
  revert a; decide

theorem regByte_toNat (c : Config) (r : Reg) : (regByte c r).toNat = regAddr c r := by
  have h := (regEntry c.reg r).isLt
  simp only [regByte, regAddr, BitVec.toNat_setWidth]
  omega

/-- A write frame reaches the register it addresses. -/
theorem writtenReg_write {a : Byte} (h : (a &&& 0x7F#8).toNat < 16) :
    writtenReg (a ||| 0x80#8) = some (a &&& 0x7F#8).toNat := by
  revert a; decide

/-- A read frame's address byte writes nothing. -/
theorem writtenReg_read (a : Byte) : writtenReg (a &&& 0x7F#8) = none := by
  revert a; decide

/-! ### Admission -/

theorem command_stuck {i : Instr} {body : State → Run Result} {s : State} (h : s.fault.isSome = true) :
    command i body s = .fault .stuckUntilReset := by simp [command, h]

theorem command_of_ready {i : Instr} {body : State → Run Result} {s : State} (h : Ready s)
    (hg : guardFault i s = none) : command i body s = .next (finish (body (accept i s))) := by
  obtain ⟨hf, hq⟩ := h
  simp [command, hf, hq, hg]

theorem command_of_guard {i : Instr} {body : State → Run Result} {s : State} (h : Ready s) {f : FdcFault}
    (hg : guardFault i s = some f) : command i body s = .next (raise f s) := by
  obtain ⟨hf, hq⟩ := h
  simp [command, hf, hq, hg]

/-- A next state comes from `Guard`'s fault or from the body, and only in a state that takes a request. -/
theorem command_next {i : Instr} {body : State → Run Result} {s t : State} (h : command i body s = .next t) :
    Ready s ∧ ((∃ f, guardFault i s = some f ∧ t = raise f s) ∨
      (guardFault i s = none ∧ t = finish (body (accept i s)))) := by
  unfold command at h
  split at h
  · cases h
  · split at h
    · cases h
    · rename_i hf hq
      refine ⟨⟨by simpa using hf, by simpa using hq⟩, ?_⟩
      split at h
      · rename_i f hg; injection h with h; exact .inl ⟨f, hg, h.symm⟩
      · rename_i hg; injection h with h; exact .inr ⟨hg, h.symm⟩

/-- What each instruction does once admitted. -/
def body : Instr → State → Run Result
  | .rd8 a => fun s => (readReg a 1 s).andThen fun data s => .done (.data8 (u8 data)) s
  | .rd16 a => fun s => (readReg a 2 s).andThen fun data s => .done (.data16 (u16 data)) s
  | .rd24 a => fun s => (readReg a 3 s).andThen fun data s => .done (.data24 (u24 data)) s
  | .wr8 a d => fun s => (writeReg a d s).andThen fun _ s => .done .unit s
  | .rmw a m x => fun s => (rmw a m x s).andThen fun _ s => .done .unit s
  | .begin => beginBody
  | .setmode m => fun s =>
    match modeOf m with
    | some mode => (setModeBody mode s).andThen fun _ s => .done .unit s
    | none => .raised (raise (.illegalCommand 0x1 (m.setWidth 64)) s)
  | .getmode => fun s => .done (.mode s.mode) s
  | .settctype t => fun s => (setTypeBody t s).andThen fun _ s => .done .unit s
  | .gettctype => fun s => (memRead .cr1 1 s).andThen fun data s =>
    .done (.typeCode (decodeType ((u8 data &&& tcTypeMask).setWidth 4))) s
  | .readfault => fun s => (memRead .sr 1 s).andThen fun data s => .done (.status (u8 data)) s
  | .trigger => fun s => (triggerBody s).andThen fun _ s => .done .unit s
  | .convdone => fun s => (completeBody s).andThen fun b s => .done (.bool b) s
  | .readcj => fun s => (memRead .cjth 2 s).andThen fun data s =>
    .done (.temperature (.value (decodeCj (u16 data)))) s
  | .readtc => readTcBody
  | .settcthr flow fhigh => fun s =>
    match encodeTcThreshold flow with
    | none => .raised (raise (.operandRange flow) s)
    | some lo =>
      match encodeTcThreshold fhigh with
      | none => .raised (raise (.operandRange fhigh) s)
      | some hi => writeTcThresholds lo hi s
  | .setcjthr low high => fun s =>
    (memWrite .cjlf (encodeCjThreshold low) s).andThen fun _ s =>
    (memWrite .cjhf (encodeCjThreshold high) s).andThen fun _ s => .done .unit s
  | .setnf f => fun s => (rmwReg .cr0 nfMask (nfBit s.cfg f) s).andThen fun _ s => .done .unit s

/-- Every instruction is admitted in the one way. -/
theorem exec_eq_command (i : Instr) (s : State) : exec i s = command i (body i) s := by
  cases i <;> rfl

/-- `Guard` passes a framer call in every state (log 12). -/
theorem guardFault_framer {i : Instr} (s : State) (h : i.code = none) : guardFault i s = none := by
  simp [guardFault, h]

/-- `Guard` passes a host command after BEGIN, but for mode code 3 (60_exceptions.md R850). -/
theorem guardFault_begun {i : Instr} {s : State} (h : s.begun = true) (hm : i ≠ .setmode 3) :
    guardFault i s = none := by
  unfold guardFault
  split
  · rfl
  · simp only [h, if_neg hm]; simp

/-- `Guard` passes BEGIN in every state. -/
theorem guardFault_begin (s : State) : guardFault .begin s = none := by
  simp [guardFault, Instr.code, encode]

end Sys2Proof.Machine
end

