-- ==== Sys2Proof/Laws/Primitives.lean ====
section
/-! SUPPORT. Every next state of an instruction is reached by the primitives of 00_scope.md R17, one after the other;
an invariant is proved once over the primitives. -/

namespace Sys2Proof.Machine

/-- One primitive of a command, from state to state. -/
inductive Prim : State → State → Prop
  | accepted (i : Instr) (s : State) : Prim s (accept i s)
  | raised (f : FdcFault) (s : State) : Prim s (raise f s)
  | delivered (r : Result) (s : State) : Prim s { s with seq := .idle, outcome := some (.result r) }
  | exchanged {out received : List Byte} {s : State} (legal : legalFrame out = true)
      (reply : s.reply out = some received) : Prim s (s.exchanged out received)
  | lost {out : List Byte} {s : State} (legal : legalFrame out = true) (reply : s.reply out = none) :
      Prim s (s.lostFrame out)
  | opened (s : State) : Prim s s.opened
  | timed (s : State) : Prim s s.timed
  | slept (ms : Nat) (s : State) : Prim s (sleep ms s)
  | sequenced (q : Seq) (s : State) : Prim s { s with seq := q }
  | mirrored (m : Mode) (s : State) : Prim s (s.setMode m)
  | began (b : Bool) (s : State) : Prim s (s.setBegun b)

/-- Any number of primitives. -/
abbrev Prims : State → State → Prop := Relation.ReflTransGen Prim

theorem Prims.one {s t : State} (h : Prim s t) : Prims s t := .single h

theorem Run.andThen_prims {α β : Type} {s : State} {r : Run α} {f : α → State → Run β}
    (h : Prims s r.state) (hf : ∀ a u, r = .done a u → Prims u (f a u).state) : Prims s (r.andThen f).state := by
  cases r with
  | done a u => exact h.trans (hf a u rfl)
  | raised u => exact h
  | waiting u => exact h

theorem legalFrame_read {c : Config} {a : Byte} {n : Nat}
    (h : (readFits (a &&& 0x7F#8) n && decide (n ≤ 3)) = true) : legalFrame (readFrame c a n) = true := by
  have h7 : (a &&& 0x7F#8).getLsbD 7 = false := by clear h; revert a; decide
  simp only [readFits, Bool.and_eq_true, decide_eq_true_eq] at h
  simp only [legalFrame, readFrame, h7, List.length_replicate, Bool.false_eq_true, if_false, Bool.and_eq_true,
    decide_eq_true_eq]
  omega

theorem legalFrame_write {a d : Byte} (h : (a &&& 0x7F#8).toNat < 16) : legalFrame (writeFrame a d) = true := by
  have h7 : (a ||| 0x80#8).getLsbD 7 = true := by clear h; revert a; decide
  have ha : ((a ||| 0x80#8) &&& 0x7F#8) = a &&& 0x7F#8 := by clear h h7; revert a; decide
  simp only [legalFrame, writeFrame, h7, ha, if_true, List.length_singleton, decide_true, Bool.true_and,
    decide_eq_true_eq]
  exact h

theorem readReg_prims (a : Byte) (n : Nat) (s : State) : Prims s (readReg a n s).state := by
  rcases readReg_cases a n s with ⟨-, h⟩ | ⟨hl, ⟨r, hr, h⟩ | ⟨hr, h⟩⟩ <;> rw [h]
  · exact .one (.raised _ _)
  · exact .one (.exchanged (legalFrame_read hl) hr)
  · exact (Prims.one (.lost (legalFrame_read hl) hr)).tail (.raised _ _)

theorem writeReg_prims (a d : Byte) (s : State) : Prims s (writeReg a d s).state := by
  rcases writeReg_cases a d s with ⟨-, h⟩ | ⟨hl, ⟨r, hr, h⟩ | ⟨hr, h⟩⟩ <;> rw [h]
  · exact .one (.raised _ _)
  · exact .one (.exchanged (legalFrame_write hl) hr)
  · exact (Prims.one (.lost (legalFrame_write hl) hr)).tail (.raised _ _)

theorem rmw_prims (a m x : Byte) (s : State) : Prims s (rmw a m x s).state :=
  Run.andThen_prims (readReg_prims a 1 s) fun _ _ _ => writeReg_prims _ _ _

theorem setModeBody_prims (m : Mode) (s : State) : Prims s (setModeBody m s).state :=
  Run.andThen_prims (rmw_prims _ _ _ s) fun _ _ _ => .one (.mirrored _ _)

theorem triggerBody_prims (s : State) : Prims s (triggerBody s).state := by
  unfold triggerBody
  split
  · exact .refl
  · exact rmw_prims _ _ _ s

theorem completeBody_prims (s : State) : Prims s (completeBody s).state := by
  unfold completeBody
  split
  · exact .refl
  · exact Run.andThen_prims (readReg_prims _ _ s) fun _ _ _ => .refl

theorem readTcValue_prims (s : State) : Prims s (readTcValue s).state :=
  Run.andThen_prims ((Prims.one (.sequenced _ s)).trans (readReg_prims _ _ _)) fun _ _ _ => .refl

theorem pollLoop_prims (n start : Nat) (s : State) : Prims s (pollLoop n start s).state := by
  induction n generalizing s with
  | zero => exact .refl
  | succ n ih =>
    refine Run.andThen_prims (completeBody_prims s) fun complete u _ => ?_
    simp only
    split
    · exact readTcValue_prims u
    · split
      · exact .one (.timed u)
      · exact (((Prims.one (.timed u)).tail (.slept _ _)).tail (.sequenced _ _)).trans (ih _)

theorem readTcBody_prims (s : State) : Prims s (readTcBody s).state := by
  unfold readTcBody
  split
  · refine Run.andThen_prims (triggerBody_prims s) fun _ u _ => ?_
    exact ((Prims.one (.timed u)).tail (.sequenced _ _)).trans (pollLoop_prims _ _ _)
  · exact readTcValue_prims s

theorem beginBody_prims (s : State) : Prims s (beginBody s).state := by
  refine Run.andThen_prims (Prims.one (.opened s)) fun granted u _ => ?_
  split
  · refine Run.andThen_prims (writeReg_prims _ _ u) fun _ u _ => ?_
    refine Run.andThen_prims (rmw_prims _ _ _ u) fun _ u _ => ?_
    refine Run.andThen_prims (writeReg_prims _ _ u) fun _ u _ => ?_
    refine Run.andThen_prims (rmw_prims _ _ _ u) fun _ u _ => ?_
    refine Run.andThen_prims (setModeBody_prims _ u) fun _ u _ => ?_
    exact .one (.began true u)
  · exact .one (.began false u)

theorem writeTcThresholds_prims (lo hi : BitVec 16) (s : State) : Prims s (writeTcThresholds lo hi s).state := by
  refine Run.andThen_prims (writeReg_prims _ _ s) fun _ u _ => ?_
  refine Run.andThen_prims (writeReg_prims _ _ u) fun _ u _ => ?_
  refine Run.andThen_prims (writeReg_prims _ _ u) fun _ u _ => ?_
  exact Run.andThen_prims (writeReg_prims _ _ u) fun _ u _ => .refl

theorem finish_prims {s : State} {r : Run Result} (h : Prims s r.state) : Prims s (finish r) := by
  cases r with
  | done a u => exact h.tail (.delivered a u)
  | raised u => exact h
  | waiting u => exact h

/-- What an instruction does once admitted is made of primitives. -/
theorem body_prims (i : Instr) (s : State) : Prims s (body i s).state := by
  cases i with
  | rd8 a => exact Run.andThen_prims (readReg_prims _ _ s) fun _ _ _ => .refl
  | rd16 a => exact Run.andThen_prims (readReg_prims _ _ s) fun _ _ _ => .refl
  | rd24 a => exact Run.andThen_prims (readReg_prims _ _ s) fun _ _ _ => .refl
  | wr8 a d => exact Run.andThen_prims (writeReg_prims _ _ s) fun _ _ _ => .refl
  | rmw a m x => exact Run.andThen_prims (rmw_prims _ _ _ s) fun _ _ _ => .refl
  | begin => exact beginBody_prims s
  | setmode m =>
    simp only [body]
    split
    · exact Run.andThen_prims (setModeBody_prims _ s) fun _ _ _ => .refl
    · exact .one (.raised _ s)
  | getmode => exact .refl
  | settctype t => exact Run.andThen_prims (rmw_prims _ _ _ s) fun _ _ _ => .refl
  | gettctype => exact Run.andThen_prims (readReg_prims _ _ s) fun _ _ _ => .refl
  | readfault => exact Run.andThen_prims (readReg_prims _ _ s) fun _ _ _ => .refl
  | trigger => exact Run.andThen_prims (triggerBody_prims s) fun _ _ _ => .refl
  | convdone => exact Run.andThen_prims (completeBody_prims s) fun _ _ _ => .refl
  | readcj => exact Run.andThen_prims (readReg_prims _ _ s) fun _ _ _ => .refl
  | readtc => exact readTcBody_prims s
  | settcthr flow fhigh =>
    simp only [body]
    split
    · exact .one (.raised _ s)
    · split
      · exact .one (.raised _ s)
      · exact writeTcThresholds_prims _ _ s
  | setcjthr low high =>
    refine Run.andThen_prims (writeReg_prims _ _ s) fun _ u _ => ?_
    exact Run.andThen_prims (writeReg_prims _ _ u) fun _ _ _ => .refl
  | setnf f => exact Run.andThen_prims (rmw_prims _ _ _ s) fun _ _ _ => .refl

/-- Every instruction's next state is reached by primitives. -/
theorem exec_prims {i : Instr} {s t : State} (h : exec i s = .next t) : Prims s t := by
  rw [exec_eq_command] at h
  rcases (command_next h).2 with ⟨f, -, rfl⟩ | ⟨-, rfl⟩
  · exact .one (.raised f s)
  · exact finish_prims ((Prims.one (.accepted i s)).trans (body_prims i _))

/-- A relation that is reflexive and transitive and holds across every primitive holds across every instruction. -/
theorem exec_induct {R : State → State → Prop} (refl : ∀ s, R s s) (trans : ∀ {s u t}, R s u → R u t → R s t)
    (prim : ∀ {s t}, Prim s t → R s t) {i : Instr} {s t : State} (h : exec i s = .next t) : R s t := by
  have hp := exec_prims h
  clear h
  induction hp with
  | refl => exact refl s
  | tail _ hq ih => exact trans ih (prim hq)

/-- The rest of a poll that was left running is made of primitives too. -/
theorem resume_prims {s t : State} (h : resume s = .next t) : Prims s t := by
  unfold resume at h
  split at h
  · cases h
  · split at h
    · split at h
      · split at h
        · injection h with h; subst h; exact finish_prims (pollLoop_prims _ _ _)
        · cases h
      · cases h
    · cases h

end Sys2Proof.Machine
end

