-- ==== Sys2Proof/Laws/Frames.lean ====
section
/-! SUPPORT. The answers a command draws, in order, and the frames of a named register when the transport answers:
a read, a write, a read-modify-write. -/

namespace Sys2Proof.Machine

/-! ### Which answer is drawn next -/

theorem State.drawAt_of_eq {s t : State} (hs : t.script = s.script) {j : Nat} (hd : t.drawn = s.drawn + j) (k : Nat) :
    t.drawAt k = s.drawAt (j + k) := by
  simp [State.drawAt, hs, hd, Nat.add_assoc]

@[simp] theorem State.drawAt_exchanged (out received : List Byte) (s : State) (k : Nat) :
    (s.exchanged out received).drawAt k = s.drawAt (k + 1) := by
  rw [State.drawAt_of_eq (s := s) (j := 1) (by simp) (by simp), Nat.add_comm]

@[simp] theorem State.drawAt_accept (i : Instr) (s : State) (k : Nat) : (accept i s).drawAt k = s.drawAt k := rfl

@[simp] theorem State.reply_accept (i : Instr) (s : State) (out : List Byte) :
    (accept i s).reply out = s.reply out := rfl

@[simp] theorem State.moved_regs_accept (i : Instr) (s : State) : (accept i s).moved.regs = s.moved.regs := rfl

@[simp] theorem State.answersFrom_accept (i : Instr) (s : State) (k : Nat) (lengths : List Nat) :
    (accept i s).answersFrom k lengths = s.answersFrom k lengths := by
  induction lengths generalizing k with
  | nil => rfl
  | cons n rest ih => simp only [State.answersFrom, ih, State.drawAt_accept]

/-- An exchange works on the chip alone: the sequencer goes on from where it stood, the outcome stays, the wire gets one
event, whatever they were. -/
theorem State.exchanged_control (s : State) (q : Seq) (o : Option CommandOutcome) (w : List Event)
    (out received : List Byte) :
    ({ s with seq := q, outcome := o, wire := w } : State).exchanged out received =
      { s.exchanged out received with
        seq := q.exchanged (readBytes out received), outcome := o, wire := w ++ [.exchanged out received] } := by
  unfold State.exchanged State.stored
  split <;> [split; skip] <;> rfl

/-- So does a pass of READTC's loop. -/
theorem State.pollPass_control (s : State) (q : Seq) (o : Option CommandOutcome) (w : List Event)
    (received : List Byte) :
    ∃ q' w', ({ s with seq := q, outcome := o, wire := w } : State).pollPass received =
      { s.pollPass received with seq := q', outcome := o, wire := w' } := by
  unfold State.pollPass
  rw [State.exchanged_control]
  exact ⟨_, _, rfl⟩

theorem State.answersFrom_exchanged (out received : List Byte) (s : State) (k : Nat) (lengths : List Nat) :
    (s.exchanged out received).answersFrom k lengths = s.answersFrom (k + 1) lengths := by
  induction lengths generalizing k with
  | nil => rfl
  | cons n rest ih => simp only [State.answersFrom, ih, State.drawAt_exchanged]

theorem State.answersFrom_cons {s : State} {n : Nat} {rest : List Nat} (h : s.answersFrom 0 (n :: rest) = true) :
    answers s.draw n = true ∧ s.answersFrom 1 rest = true := by
  simpa [State.answersFrom, State.draw] using h

/-! ### The chip after an exchange -/

/-- A read frame leaves the chip as its own move left it. -/
theorem State.exchanged_read_regs {s : State} {a : Byte} (h : writtenReg a = none) (data received : List Byte) :
    (s.exchanged (a :: data) received).regs = s.moved.regs := by
  rw [State.exchanged_regs]
  unfold State.stored
  split
  · rename_i heq; injection heq with h1 _; subst h1; simp [h]
  · rfl

/-- A write frame stores its byte, or what the chip keeps of it, on top of the chip's own move. -/
theorem State.exchanged_write_regs {s : State} {a d : Byte} (h : (a &&& 0x7F#8).toNat < 16) (received : List Byte) :
    (s.exchanged (writeFrame a d) received).regs
      = Mem.write s.cfg s.moved.regs (a &&& 0x7F#8).toNat (valueKept s.cfg s.draw (a &&& 0x7F#8).toNat d) := by
  rw [State.exchanged_regs]
  simp [State.stored, writeFrame, writtenReg_write h]

/-- A write of a named register the FDC writes stores the byte itself. -/
theorem State.exchanged_write_reg {s : State} {r : Reg} (hw : s.cfg.wellFormed = true) (hr : r ∉ chipOwned) (d : Byte)
    (received : List Byte) :
    (s.exchanged (writeFrame (regByte s.cfg r) d) received).regs = Mem.write s.cfg s.moved.regs (regAddr s.cfg r) d := by
  have hlt : (regByte s.cfg r &&& 0x7F#8).toNat < 16 := by rw [regByte_masked]; exact regByte_lt _ _
  rw [State.exchanged_write_regs hlt, regByte_masked, regByte_toNat, valueKept_named hw hr]

/-! ### Frames of a named register -/

theorem regByte_fits (c : Config) (r : Reg) : (readFits (regByte c r &&& 0x7F#8) 1 && decide (1 ≤ 3)) = true := by
  have := regByte_lt c r
  simp only [regByte_masked, readFits, Bool.and_eq_true, decide_eq_true_eq]
  omega

/-- A one-byte read of a named register: its data byte, or TransportFail. -/
theorem memRead_one_of_reply {r : Reg} {s : State} {b v : Byte}
    (h : s.reply [regByte s.cfg r, s.cfg.dummy] = some [b, v]) :
    memRead r 1 s = .done [v] (s.exchanged [regByte s.cfg r, s.cfg.dummy] [b, v]) := by
  have hf : readFrame s.cfg (regByte s.cfg r) 1 = [regByte s.cfg r, s.cfg.dummy] := by
    simp [readFrame, regByte_masked]
  rcases readReg_cases (regByte s.cfg r) 1 s with ⟨hl, -⟩ | ⟨-, ⟨rec, hr, he⟩ | ⟨hr, -⟩⟩
  · rw [regByte_fits] at hl; cases hl
  · rw [hf, h] at hr
    cases hr
    rw [hf] at he
    exact he
  · rw [hf, h] at hr; cases hr

theorem memRead_one_of_answers {r : Reg} {s : State} (h : answers s.draw 2 = true) :
    ∃ b v, s.reply [regByte s.cfg r, s.cfg.dummy] = some [b, v] ∧
      memRead r 1 s = .done [v] (s.exchanged [regByte s.cfg r, s.cfg.dummy] [b, v]) := by
  obtain ⟨received, hr⟩ := State.reply_of_answers (out := [regByte s.cfg r, s.cfg.dummy]) h
  obtain ⟨b, v, rfl⟩ := State.reply_two hr
  exact ⟨b, v, hr, memRead_one_of_reply hr⟩

/-- A write of a named register with an answering transport. -/
theorem memWrite_of_answers {r : Reg} {v : Byte} {s : State} (h : answers s.draw 2 = true) :
    ∃ c0 c1, memWrite r v s =
      .done () (s.exchanged (writeFrame (regByte s.cfg r) v) [c0, c1]) := by
  obtain ⟨received, hr⟩ := State.reply_of_answers (out := writeFrame (regByte s.cfg r) v) h
  obtain ⟨c0, c1, rfl⟩ := State.reply_two hr
  have hlt : (regByte s.cfg r &&& 0x7F#8).toNat < 16 := by rw [regByte_masked]; exact regByte_lt _ _
  rcases writeReg_cases (regByte s.cfg r) v s with ⟨hl, -⟩ | ⟨-, ⟨rec, hr', he⟩ | ⟨hr', -⟩⟩
  · omega
  · rw [hr] at hr'
    cases hr'
    exact ⟨c0, c1, he⟩
  · rw [hr] at hr'; cases hr'

theorem u8_singleton (v : Byte) : u8 [v] = v := by simp [u8, bigEndian]

/-- A read-modify-write of a named register with an answering transport: two exchanges, the second writing the merged
byte (40_register_access.md R430). -/
theorem rmwReg_of_answers {r : Reg} {m x : Byte} {s : State} (h : s.answersFrom 0 [2, 2] = true) :
    ∃ b v c0 c1, s.reply [regByte s.cfg r, s.cfg.dummy] = some [b, v] ∧
      rmwReg r m x s = .done () ((s.exchanged [regByte s.cfg r, s.cfg.dummy] [b, v]).exchanged
        (writeFrame (regByte s.cfg r) (merge v m x)) [c0, c1]) := by
  obtain ⟨h0, h1⟩ := State.answersFrom_cons h
  obtain ⟨b, v, hr, he⟩ := memRead_one_of_answers (r := r) h0
  have h1' : answers (s.exchanged [regByte s.cfg r, s.cfg.dummy] [b, v]).draw 2 = true := by
    simpa [State.draw, State.answersFrom] using h1
  obtain ⟨c0, c1, hw⟩ := memWrite_of_answers (r := r) (v := merge v m x) h1'
  refine ⟨b, v, c0, c1, hr, ?_⟩
  have he' : readReg (regByte s.cfg r) 1 s = .done [v] (s.exchanged [regByte s.cfg r, s.cfg.dummy] [b, v]) := he
  simp only [memWrite, State.exchanged_cfg] at hw
  simp [rmwReg, rmw, he', u8_singleton, hw]

end Sys2Proof.Machine
end

