-- ==== Sys2Proof/Laws/PerInstr.lean ====
section
/-! SUPPORT. A fact about every instruction as syntax, one lemma per constructor: at which of the FDC's two encoded
interfaces its words stand (30_encoding.md R300 to R303, R310). It is no round trip: it says nothing about decoding. -/

namespace Sys2Proof.Laws.PortOf

open Sys2Proof.Machine

/-- A host command's words are a command with its own code, below the reserved ones; a read or a write is one frame of
two to four bytes, a legal one where the operands have an encoding; a read-modify-write is a call with its operands
(log 12), whose address names a register where the operands have an encoding. -/
def Statement (i : Instr) : Prop :=
  ∀ dummy, match encode dummy i with
    | .command op _ => i.code = some op ∧ op.toNat < 0xD
    | .frame bytes =>
      i.code = none ∧ 2 ≤ bytes.length ∧ bytes.length ≤ 4 ∧ (i.wellFormed = true → legalFrame bytes = true)
    | .readModifyWrite a m x =>
      i.code = none ∧ i = .rmw a m x ∧ (i.wellFormed = true → (a &&& 0x7F#8).toNat < 16)

/-- An address with room for `n` bytes has a clear bit 7. -/
theorem readFits_bit7 (a : Byte) (n : Nat) (h : readFits a n = true) : a.getLsbD 7 = false := by
  simp only [readFits, Bool.and_eq_true, decide_eq_true_eq] at h
  have : a.toNat < 16 := by omega
  rw [BitVec.getLsbD, Nat.testBit_lt_two_pow (by omega)]

/-- A read frame whose bytes fit is legal. -/
theorem legalFrame_read (a : Byte) (rest : List Byte) (n : Nat) (hr : rest.length = n) (hn : n ≤ 3)
    (h : readFits a n = true) : legalFrame (a :: rest) = true := by
  have h7 := readFits_bit7 a n h
  simp only [readFits, Bool.and_eq_true, decide_eq_true_eq] at h
  simp only [legalFrame, h7, hr, Bool.and_eq_true, decide_eq_true_eq, if_false, Bool.false_eq_true]
  omega

theorem rd8 (a : Byte) : Statement (.rd8 a) :=
  fun d => ⟨rfl, by simp, by simp, fun h => legalFrame_read a [d] 1 rfl (by decide) h⟩

theorem rd16 (a : Byte) : Statement (.rd16 a) :=
  fun d => ⟨rfl, by simp, by simp, fun h => legalFrame_read a [d, d] 2 rfl (by decide) h⟩

theorem rd24 (a : Byte) : Statement (.rd24 a) :=
  fun d => ⟨rfl, by simp, by simp, fun h => legalFrame_read a [d, d, d] 3 rfl (by decide) h⟩

theorem wr8 (a d : Byte) : Statement (.wr8 a d) := by
  intro dummy
  refine ⟨rfl, by simp, by simp, fun h => ?_⟩
  have key : ∀ a : Byte, readFits a 1 = true →
      (a ||| 0x80#8).getLsbD 7 = true ∧ ((a ||| 0x80#8) &&& 0x7F#8).toNat < 16 := by decide +kernel
  obtain ⟨h1, h2⟩ := key a h
  simp only [legalFrame, h1, h2, if_true]; rfl

theorem rmw (a m x : Byte) : Statement (.rmw a m x) := by
  refine fun _ => ⟨rfl, rfl, fun h => ?_⟩
  simp only [Instr.wellFormed, readFits, Bool.and_eq_true, decide_eq_true_eq] at h
  omega

theorem begin : Statement .begin := fun _ => ⟨rfl, by decide⟩

theorem setmode (m : BitVec 2) : Statement (.setmode m) := fun _ => ⟨rfl, by decide⟩

theorem getmode : Statement .getmode := fun _ => ⟨rfl, by decide⟩

theorem settctype (t : Byte) : Statement (.settctype t) := fun _ => ⟨rfl, by decide⟩

theorem gettctype : Statement .gettctype := fun _ => ⟨rfl, by decide⟩

theorem readfault : Statement .readfault := fun _ => ⟨rfl, by decide⟩

theorem trigger : Statement .trigger := fun _ => ⟨rfl, by decide⟩

theorem convdone : Statement .convdone := fun _ => ⟨rfl, by decide⟩

theorem readcj : Statement .readcj := fun _ => ⟨rfl, by decide⟩

theorem readtc : Statement .readtc := fun _ => ⟨rfl, by decide⟩

theorem settcthr (flow fhigh : F32) : Statement (.settcthr flow fhigh) := fun _ => ⟨rfl, by decide⟩

theorem setcjthr (low high : BitVec 8) : Statement (.setcjthr low high) := fun _ => ⟨rfl, by decide⟩

theorem setnf (f : BitVec 1) : Statement (.setnf f) := fun _ => ⟨rfl, by decide⟩

end Sys2Proof.Laws.PortOf
end

