-- ==== Sys2Proof/Machine/Text.lean ====
section
/-! DEFINITION. The textual syntax of 30_encoding.md R340 (D35): how a command, a frame of a trace and its bytes are
written. Nothing in the machine reads it. Digits finer than R340 fixes (upper case, two hexadecimal digits a byte)
follow its examples. -/

namespace Sys2Proof.Machine

/-- One hexadecimal digit. -/
def hexDigit (n : Nat) : Char :=
  (['0', '1', '2', '3', '4', '5', '6', '7', '8', '9', 'A', 'B', 'C', 'D', 'E', 'F'][n]?).getD '0'

/-- A byte as two hexadecimal digits. -/
def hexByte (b : Byte) : String := String.ofList [hexDigit (b.toNat / 16), hexDigit (b.toNat % 16)]

/-- A byte as a hexadecimal literal. -/
def hexLit (b : Byte) : String := "0x" ++ hexByte b

/-- A mnemonic of opcode_table.json. -/
def mnemonic : Instr → String
  | .rd8 _ => "RD8"
  | .rd16 _ => "RD16"
  | .rd24 _ => "RD24"
  | .wr8 _ _ => "WR8"
  | .rmw _ _ _ => "RMW"
  | .begin => "BEGIN"
  | .setmode _ => "SETMODE"
  | .getmode => "GETMODE"
  | .settctype _ => "SETTCTYPE"
  | .gettctype => "GETTCTYPE"
  | .readfault => "READFAULT"
  | .trigger => "TRIGGER"
  | .convdone => "CONVDONE"
  | .readcj => "READCJ"
  | .readtc => "READTC"
  | .settcthr _ _ => "SETTCTHR"
  | .setcjthr _ _ => "SETCJTHR"
  | .setnf _ => "SETNF"

/-- A mode's name. -/
def modeText : Mode → String
  | .oneShot => "OneShot"
  | .oneShotNoWait => "OneShotNoWait"
  | .continuous => "Continuous"

/-- The thermocouple types with their names. -/
def tcNames : List (TcType × String) :=
  [(.b, "B"), (.e, "E"), (.j, "J"), (.k, "K"), (.n, "N"), (.r, "R"), (.s, "S"), (.t, "T"), (.g8, "G8"), (.g32, "G32")]

/-- A type operand, by name where its value is a type's code, else as a number. -/
def tcText (c : Config) (t : Byte) : String :=
  match tcNames.find? (fun p => (tcEntry c.tcCode p.1).toNat == t.toNat) with
  | some p => p.2
  | none => hexLit t

/-- Trailing zeros taken off a list of digits held last digit first, one digit kept. -/
def dropZeros : List Char → List Char
  | '0' :: d :: rest => dropZeros (d :: rest)
  | digits => digits

/-- The exact decimal expansion of `n / 2^k`. -/
def binaryDecimal (n k : Nat) : String :=
  let fraction := Nat.toDigits 10 (n % 2 ^ k * 5 ^ k)
  let padded := List.replicate (k - fraction.length) '0' ++ fraction
  String.ofList (Nat.toDigits 10 (n / 2 ^ k) ++ '.' :: (dropZeros padded.reverse).reverse)

/-- A binary32 value as an exact decimal literal. R340 writes thresholds as decimal literals and says nothing of the values
that have none; they are written inf, -inf and NaN: DESIGN CHOICE, log 21. -/
def f32Text (x : F32) : String :=
  if f32Finite x then (if f32Negative x then "-" else "") ++ binaryDecimal (f32Scaled x) 150
  else if x.extractLsb' 0 23 = 0 then (if f32Negative x then "-inf" else "inf") else "NaN"

/-- A host command or a framer call as R340 writes it (mode code 3, which has no name, as the number: log 21); `RMW A, CLR, SET` clears the owned bits that are not set. -/
def instrText (c : Config) (i : Instr) : String :=
  mnemonic i ++
  match i with
  | .rd8 a | .rd16 a | .rd24 a => " " ++ hexLit a
  | .wr8 a d => " " ++ hexLit a ++ ", " ++ hexLit d
  | .rmw a m x => " " ++ hexLit a ++ ", " ++ hexLit (m &&& ~~~x) ++ ", " ++ hexLit (x &&& m)
  | .setmode m => " " ++ ((modeOf m).map modeText).getD "3"
  | .settctype t => " " ++ tcText c t
  | .settcthr flow fhigh => " " ++ f32Text flow ++ ", " ++ f32Text fhigh
  | .setcjthr low high => " " ++ toString low.toInt ++ ", " ++ toString high.toInt
  | .setnf f => if f = 0 then " 50Hz" else " 60Hz"
  | .begin | .getmode | .gettctype | .readfault | .trigger | .convdone | .readcj | .readtc => ""

/-- The bytes of a frame, `[b0 b1 ...]`. -/
def bytesText (bytes : List Byte) : String := "[" ++ String.intercalate " " (bytes.map hexByte) ++ "]"

/-- The bytes of a frame, sent and received. -/
def frameBytesText (sent received : List Byte) : String := bytesText sent ++ " / " ++ bytesText received

/-- A frame in a trace: `RD<8n> A -> [d1, ..., dn]` or `WR8 A, D`. -/
def frameText (sent received : List Byte) : String :=
  match sent with
  | [] => "[]"
  | ab :: rest =>
    if ab.getLsbD 7 then
      "WR8 " ++ hexLit (ab &&& 0x7F#8) ++ ", " ++ String.intercalate ", " (rest.map hexLit)
    else
      "RD" ++ toString (8 * rest.length) ++ " " ++ hexLit ab ++ " -> ["
        ++ String.intercalate ", " ((received.drop 1).map hexLit) ++ "]"

end Sys2Proof.Machine
end

