-- ==== Sys2Proof/Tests/Slice0.lean ====
section
/-! SUPPORT. The model's own tests. Expected values come from spec/ only: the words of 30_encoding.md, the examples of
each rule, the vectors E, B and C of 95_test_vectors.md; the source stands before each. The last part shows, for every
statement with hypotheses, a concrete state that meets them. -/

namespace Sys2Proof.Tests

set_option Elab.async false

open Sys2Proof Sys2Proof.Machine

/-! ### Small states -/

/-- The transport exchanges, data from the registers; nothing else moves. -/
def ok : Draw := ⟨0, .act [] false false, true, .wired 0 0, false, 0⟩

/-- A read whose data bytes are given (an oracle answer, 10_state.md R150). -/
def gives (data : List Byte) : Draw := { ok with link := .raw (0 :: data) }

/-- The exchange fails. -/
def fails : Draw := { ok with link := .failed }

/-- The time source sleeps this much longer than asked. -/
def late (ms : Nat) : Draw := { ok with ms := ms }

/-- After a BEGIN, in a mode, with these answers to come. -/
def inMode (m : Mode) (script : List Draw) : State :=
  { State.reset with mode := some m, begun := true, script := script }

/-- Right after reset, with these answers to come. -/
def fresh (script : List Draw) : State := { State.reset with script := script }

/-- The host has offered these. -/
def offering (inputs : List HostInput) : State := { State.reset with inputs := inputs }

/-- A recorded fault. -/
def stuck : State := { State.reset with fault := some (.notInitialised 9) }

/-- The next state, if there is one. -/
def nextOf (o : Host.Outcome State Fault Refusal) : Option State :=
  match o with
  | .next t => some t
  | .fault _ => none
  | .refused _ => none

/-- The frames on the wire of a state. -/
def framesOf (t : State) : List (List Byte) := t.wire.filterMap Event.frame

/-- How an instruction ended and which frames it sent, from a state with an empty wire. -/
def trace (i : Instr) (s : State) : Option (Option CommandOutcome × List (List Byte)) :=
  (nextOf (exec i s)).map fun t => (t.outcome, framesOf t)

/-- The state an instruction leaves, or the state it began in. -/
def after (i : Instr) (s : State) : State := (nextOf (exec i s)).getD s

/-! ### WellFormed refuses each kind of ill-formed term -/

theorem test_wf_rd8_address : (Instr.rd8 0x10).wellFormed = false := by decide
theorem test_wf_rd8_bit7 : (Instr.rd8 0x80).wellFormed = false := by decide
theorem test_wf_rd16_end : (Instr.rd16 0x0F).wellFormed = false := by decide
theorem test_wf_rd24_end : (Instr.rd24 0x0E).wellFormed = false := by decide
theorem test_wf_wr8_address : (Instr.wr8 0x10 0).wellFormed = false := by decide
theorem test_wf_rmw_address : (Instr.rmw 0x7F 0 0).wellFormed = false := by decide
theorem test_wf_setmode_code : (Instr.setmode 3).wellFormed = false := by decide
theorem test_wf_count : readFits 0x00 0 = false := by decide

/-- The parameter check: equal addresses, each multi-byte register not contiguous, equal bits, a bit on bit 0, no poll
interval, a narrow count, a CR0 bit set at chip reset. -/
theorem test_wf_config : defaultConfig.wellFormed = true ∧
    { defaultConfig with reg := { defaultReg with sr := 0x0 } }.wellFormed = false ∧
    { defaultConfig with reg := { defaultReg with lthftl := 0x7, ltlfth := 0x6 } }.wellFormed = false ∧
    { defaultConfig with reg := { defaultReg with ltlftl := 0x9, cjto := 0x8 } }.wellFormed = false ∧
    { defaultConfig with reg := { defaultReg with cjtl := 0xF, sr := 0xB } }.wellFormed = false ∧
    { defaultConfig with reg := { defaultReg with ltcbm := 0xE, ltcbl := 0xD } }.wellFormed = false ∧
    { defaultConfig with reg := { defaultReg with ltcbl := 0xF, sr := 0xE } }.wellFormed = false ∧
    { defaultConfig with bitCmode := 6 }.wellFormed = false ∧
    { defaultConfig with bitOcfault0 := 0 }.wellFormed = false ∧
    { defaultConfig with pollMs := 0 }.wellFormed = false ∧
    { defaultConfig with timeWidth := 7 }.wellFormed = false ∧
    { defaultConfig with chipReset := { defaultChipReset with cr0 := 0x01 } }.wellFormed = false := by decide +kernel

/-! ### Decoding, from words written out from 30_encoding.md -/

/-- R301, `0aaaaaaa xxxxxxxx`: address 0x0F is 0000 1111, DUMMY 1111 1111. -/
theorem test_decode_rd8 : decode (.frame [0b00001111, 0b11111111]) = .instr (.rd8 0x0F) := by decide
/-- R301, `0aaaaaaa xxxxxxxx xxxxxxxx`, address 0x0A. -/
theorem test_decode_rd16 : decode (.frame [0b00001010, 0xFF, 0xFF]) = .instr (.rd16 0x0A) := by decide
/-- R301, `0aaaaaaa xxxxxxxx xxxxxxxx xxxxxxxx`, address 0x0C; the dummy bytes do not count. -/
theorem test_decode_rd24 : decode (.frame [0b00001100, 0x00, 0x5A, 0xFF]) = .instr (.rd24 0x0C) := by decide
/-- R302, `1aaaaaaa dddddddd`, address 0x05, data 0101 0000. -/
theorem test_decode_wr8 : decode (.frame [0b10000101, 0b01010000]) = .instr (.wr8 0x05 0x50) := by decide
/-- opcode_table.json, RMW `0000aaaa xxxxxxxx ; 1000aaaa wwwwwwww`: two frames, of which the first is an RD8 and the
second a WR8 of the same address; the call has its operands beside it (log 12), the address with bit 7 not counted. -/
theorem test_decode_rmw :
    decode (.readModifyWrite 0x01 0x0F 0x02) = .instr (.rmw 0x01 0x0F 0x02) ∧
    decode (.readModifyWrite 0x8F 0x0F 0x02) = .instr (.rmw 0x8F 0x0F 0x02) ∧
    decode (.readModifyWrite 0x90 0x0F 0x02) = .reject (.badAddress 0x10) ∧
    decode (.frame [0b00000001, 0xFF]) = .instr (.rd8 0x01) ∧
    decode (.frame [0b10000001, 0x02]) = .instr (.wr8 0x01 0x02) := by decide
/-- R310, OP = 0000. -/
theorem test_decode_begin : decode (.command 0b0000 0) = .instr .begin := by decide
/-- R310, OP = 0001; R311, code 1 is OneShotNoWait. -/
theorem test_decode_setmode : decode (.command 0b0001 0b01) = .instr (.setmode 0b01) := by decide
/-- R310, OP = 0010. -/
theorem test_decode_getmode : decode (.command 0b0010 0) = .instr .getmode := by decide
/-- R310, OP = 0011, t = 0x13. -/
theorem test_decode_settctype : decode (.command 0b0011 0x13) = .instr (.settctype 0x13) := by decide
/-- R310, OP = 0100. -/
theorem test_decode_gettctype : decode (.command 0b0100 0) = .instr .gettctype := by decide
/-- R310, OP = 0101. -/
theorem test_decode_readfault : decode (.command 0b0101 0) = .instr .readfault := by decide
/-- R310, OP = 0110. -/
theorem test_decode_trigger : decode (.command 0b0110 0) = .instr .trigger := by decide
/-- R310, OP = 0111. -/
theorem test_decode_convdone : decode (.command 0b0111 0) = .instr .convdone := by decide
/-- R310, OP = 1000. -/
theorem test_decode_readcj : decode (.command 0b1000 0) = .instr .readcj := by decide
/-- R310, OP = 1001. -/
theorem test_decode_readtc : decode (.command 0b1001 0) = .instr .readtc := by decide
/-- R310, OP = 1010; flow = -10.0 (0xC1200000), fhigh = 85.0 (0x42AA0000), laid out as log 11 says. -/
theorem test_decode_settcthr :
    decode (.command 0b1010 0x42AA0000C1200000) = .instr (.settcthr 0xC1200000 0x42AA0000) := by decide
/-- R310, OP = 1011; low = -20 (0xEC), high = 70 (0x46). -/
theorem test_decode_setcjthr : decode (.command 0b1011 0x46EC) = .instr (.setcjthr 0xEC 0x46) := by decide
/-- R310, OP = 1100; R311, code 1 is 60 Hz. -/
theorem test_decode_setnf : decode (.command 0b1100 1) = .instr (.setnf 1) := by decide

/-- R330: reserved codes and mode code 3. -/
theorem test_decode_reserved : decode (.command 0xD 0) = .reject (.reservedCode 0xD) ∧
    decode (.command 0xE 0) = .reject (.reservedCode 0xE) ∧ decode (.command 0xF 0) = .reject (.reservedCode 0xF) ∧
    decode (.command 0x1 3) = .reject .reservedMode := by decide

/-- R330 and B1: addresses 0x10 and up, counts 0 and 4, reads past 0x0F, write frames of other than one byte. -/
theorem test_decode_illegal_frames : decode (.frame []) = .reject .emptyFrame ∧
    decode (.frame [0x10, 0xFF]) = .reject (.badAddress 0x10) ∧
    decode (.frame [0x90, 0x00]) = .reject (.badAddress 0x10) ∧
    decode (.frame [0x00]) = .reject (.badCount 0) ∧
    decode (.frame [0x00, 0xFF, 0xFF, 0xFF, 0xFF]) = .reject (.badCount 4) ∧
    decode (.frame [0x00, 0x80, 0x80, 0x80, 0x80]) = .reject (.badCount 4) ∧
    decode (.frame [0x0F, 0xFF, 0xFF]) = .reject (.pastEnd 0x0F 2) ∧
    decode (.frame [0x0E, 0xFF, 0xFF, 0xFF]) = .reject (.pastEnd 0x0E 3) ∧
    decode (.frame [0x80]) = .reject (.badWriteLength 0) ∧
    decode (.frame [0x80, 0x01, 0x02]) = .reject (.badWriteLength 2) := by decide

/-- Table words (log 13): the eighteen rows, by their matches and lengths. -/
theorem test_table_words :
    (List.range 13).map (decodeTableWord 8)
      = [some .begin, some (.setmode 0), some .getmode, some (.settctype 0), some .gettctype, some .readfault,
         some .trigger, some .convdone, some .readcj, some .readtc, some (.settcthr 0 0), some (.setcjthr 0 0),
         some (.setnf 0)] ∧
    decodeTableWord 8 0x0D = none ∧ decodeTableWord 8 0x80 = some (.wr8 0x00 0x00) ∧
    decodeTableWord 16 0x0000 = some (.rd8 0x00) ∧ decodeTableWord 24 0x000000 = some (.rd16 0x00) ∧
    decodeTableWord 32 0x00000000 = some (.rd24 0x00) ∧ decodeTableWord 16 0x5080 = some (.wr8 0x00 0x50) ∧
    decodeTableWord 40 0x020F81FF01 = some (.rmw 0x01 0x0F 0x02) := by decide +kernel

/-- The step runs the word placed for it: BEGIN is taken first after reset and delivers a result. -/
theorem test_first_step : (nextOf (step ((fresh (List.replicate 9 ok)).withFetchWord 8 0x00))).map (·.outcome)
    = some (some (.result (.bool true))) := by decide +kernel

/-! ### The framer -/

/-- B1: ReadReg(0x8F, 1) sends `[0F FF]`, returns 0x01. -/
theorem test_rd8_bit7 : trace (.rd8 0x8F) (fresh [gives [0x01]])
    = some (some (.result (.data8 0x01)), [[0x0F, 0xFF]]) := by decide +kernel
/-- B1: ReadReg(0x0A, 2) gives 0xE700, most significant byte first. -/
theorem test_rd16_order : trace (.rd16 0x0A) (fresh [gives [0xE7, 0x00]])
    = some (some (.result (.data16 0xE700)), [[0x0A, 0xFF, 0xFF]]) := by decide +kernel
/-- B1: ReadReg(0x0F, 2) crosses 0x0F. -/
theorem test_rd16_past_end : trace (.rd16 0x0F) (fresh [ok])
    = some (some (.fault (.illegalFrame [0x0F, 0xFF, 0xFF])), []) := by decide +kernel
/-- B1: ReadReg(0x0D, 3) gives 0xAABBCC. -/
theorem test_rd24_last_base : trace (.rd24 0x0D) (fresh [gives [0xAA, 0xBB, 0xCC]])
    = some (some (.result (.data24 0xAABBCC)), [[0x0D, 0xFF, 0xFF, 0xFF]]) := by decide +kernel
/-- R401, D33: a reply of another length is a failure. -/
theorem test_rd24_short_reply : trace (.rd24 0x0D) (fresh [gives [0xAA]])
    = some (some (.fault (.transportFail [0x0D, 0xFF, 0xFF, 0xFF] 1)), [[0x0D, 0xFF, 0xFF, 0xFF]]) := by
  decide +kernel
/-- B1: WriteReg(0x85, 0x05) sends `[85 05]`; the register at 0x05 holds 0x05 after it. -/
theorem test_wr8_bit7 : trace (.wr8 0x85 0x05) (fresh [ok]) = some (some (.result .unit), [[0x85, 0x05]]) ∧
    (after (.wr8 0x85 0x05) (fresh [ok])).reg .lthfth = 0x05 := by decide +kernel
/-- B1: WriteReg(0x90, 0x00) is illegal. -/
theorem test_wr8_illegal : trace (.wr8 0x90 0x00) (fresh [ok])
    = some (some (.fault (.illegalFrame [0x90, 0x00])), []) := by decide +kernel
/-- B2: 0x5F under mask 0xC0 with 0x80 writes 0x9F. -/
theorem test_rmw_merge : trace (.rmw 0x00 0xC0 0x80) (fresh [gives [0x5F], ok])
    = some (some (.result .unit), [[0x00, 0xFF], [0x80, 0x9F]]) := by decide +kernel
/-- B2: an unchanged byte is written all the same. -/
theorem test_rmw_unchanged : trace (.rmw 0x00 0x10 0x10) (fresh [gives [0xFF], ok])
    = some (some (.result .unit), [[0x00, 0xFF], [0x80, 0xFF]]) := by decide +kernel

/-! ### Initialisation and configuration -/

/-- E9: the eight frames, from chip reset; true. -/
theorem test_begin_frames : trace .begin (fresh (List.replicate 9 ok))
    = some (some (.result (.bool true)), [[0x82, 0x00], [0x00, 0xFF], [0x80, 0x10], [0x89, 0x00], [0x01, 0xFF],
        [0x81, 0x03], [0x00, 0xFF], [0x80, 0x50]]) := by decide +kernel
/-- B7: the fifth exchange fails; MASK 0x00, CR0 0x10, CJTO 0x00, not begun. -/
theorem test_begin_fifth_fails :
    let t := after .begin (fresh (List.replicate 5 ok ++ [fails]))
    t.outcome = some (.fault (.transportFail [0x01, 0xFF] 5)) ∧ t.begun = false ∧ t.reg .mask = 0x00 ∧
      t.reg .cr0 = 0x10 ∧ t.reg .cjto = 0x00 := by decide +kernel
/-- E2, B7: CR1 0xA5, SETTCTYPE 0x13 writes 0xA3. -/
theorem test_settctype_high_nibble : trace (.settctype 0x13) (inMode .oneShot [gives [0xA5], ok])
    = some (some (.result .unit), [[0x01, 0xFF], [0x81, 0xA3]]) := by decide +kernel
/-- B7: CR1 0x09 gives 0x9, a nibble that names no type. -/
theorem test_gettctype_raw : trace .gettctype (inMode .oneShot [gives [0x09]])
    = some (some (.result (.typeCode 0x9)), [[0x01, 0xFF]]) := by decide +kernel
/-- B2: 50 Hz while a one-shot conversion is pending writes 0x51. -/
theorem test_setnf_pending : trace (.setnf 0) (inMode .oneShot [gives [0x50], ok])
    = some (some (.result .unit), [[0x00, 0xFF], [0x80, 0x51]]) := by decide +kernel
/-- B7: 60 Hz on CR0 0x11 writes 0x10. -/
theorem test_setnf_sixty : trace (.setnf 1) (inMode .oneShot [gives [0x11], ok])
    = some (some (.result .unit), [[0x00, 0xFF], [0x80, 0x10]]) := by decide +kernel
/-- B7: SETCJTHR 100, -100; low first, no order check. -/
theorem test_setcjthr_order : trace (.setcjthr 100 (-100)) (inMode .oneShot [ok, ok])
    = some (some (.result .unit), [[0x84, 0x64], [0x83, 0x9C]]) := by decide +kernel
/-- E7: SETTCTHR -10.0, 85.0. -/
theorem test_settcthr_frames : trace (.settcthr 0xC1200000 0x42AA0000) (inMode .oneShot [ok, ok, ok, ok])
    = some (some (.result .unit), [[0x85, 0x05], [0x86, 0x50], [0x87, 0xFF], [0x88, 0x60]]) := by decide +kernel
/-- B7: SETTCTHR 0.0, 2048.0 raises OperandRange and sends nothing. -/
theorem test_settcthr_range : trace (.settcthr 0x00000000 0x45000000) (inMode .oneShot [ok])
    = some (some (.fault (.operandRange 0x45000000)), []) := by decide +kernel
/-- B7: SR 0xFF is returned whole. -/
theorem test_readfault_all : trace .readfault (inMode .continuous [gives [0xFF]])
    = some (some (.result (.status 0xFF)), [[0x0F, 0xFF]]) := by decide +kernel
/-- B7: CJT 0xE700 is -25.0, from the register file, in OneShotNoWait. -/
theorem test_readcj_negative : trace .readcj { inMode .oneShotNoWait [ok] with regs := [(10, 0xE7)] }
    = some (some (.result (.temperature (.value 0xC1C80000))), [[0x0A, 0xFF, 0xFF]]) := by decide +kernel

/-! ### The conversion-mode state machine -/

/-- E3: CR0 0x10, SETMODE Continuous writes 0x90; the mirror says Continuous. -/
theorem test_setmode_continuous : trace (.setmode 2) (inMode .oneShot [gives [0x10], ok])
      = some (some (.result .unit), [[0x00, 0xFF], [0x80, 0x90]]) ∧
    (after (.setmode 2) (inMode .oneShot [gives [0x10], ok])).mode = some .continuous := by decide +kernel
/-- B9: the second exchange fails; the mirror stays. -/
theorem test_setmode_write_fails :
    let t := after (.setmode 2) (inMode .oneShot [gives [0x10], fails])
    t.outcome = some (.fault (.transportFail [0x80, 0x90] 2)) ∧ t.mode = some .oneShot := by decide +kernel
/-- B8: in OneShotNoWait GETMODE gives code 1, no frame. -/
theorem test_getmode : trace .getmode (inMode .oneShotNoWait []) =
    some (some (.result (.mode (some .oneShotNoWait))), []) ∧ modeCode .oneShotNoWait = 1 := by decide +kernel
/-- E4: in Continuous TRIGGER sends nothing. -/
theorem test_trigger_continuous : trace .trigger (inMode .continuous []) = some (some (.result .unit), []) := by
  decide +kernel
/-- B8: OneShot with CR0 0x90 (stale mirror) writes 0x50. -/
theorem test_trigger_stale : trace .trigger (inMode .oneShot [gives [0x90], ok])
    = some (some (.result .unit), [[0x00, 0xFF], [0x80, 0x50]]) := by decide +kernel
/-- B8: OneShot with CR0 0x50 is not done. -/
theorem test_convdone_pending : trace .convdone (inMode .oneShot [gives [0x50]])
    = some (some (.result (.bool false)), [[0x00, 0xFF]]) := by decide +kernel
/-- B8: in Continuous CONVDONE is true, no frame. -/
theorem test_convdone_continuous : trace .convdone (inMode .continuous []) =
    some (some (.result (.bool true)), []) := by decide +kernel

/-- C4: CR0 reads 0x50 at every check; NaN after 27 checks, at 1260. -/
def neverDone : State :=
  { inMode .oneShot ([gives [0x10], ok] ++ (List.replicate 27 [gives [0x50], ok]).flatten) with now := 1000 }

/-- C4: 29 frames, none of them an RD24; no fault. -/
theorem test_readtc_timeout :
    let t := after .readtc neverDone
    t.outcome = some (.result (.temperature .nan)) ∧ (framesOf t).length = 29 ∧
      (framesOf t).all (fun f => f.length == 2) ∧ t.now = 1260 ∧ t.fault = none := by decide +kernel

/-- B8: done at the 26th check, elapsed exactly 250: the value, not NaN; 29 frames. -/
theorem test_readtc_check_before_timeout :
    let t := after .readtc (inMode .oneShot ([gives [0x10], ok] ++ (List.replicate 25 [gives [0x50], ok]).flatten
      ++ [gives [0x10], gives [0x06, 0x40, 0x00]]))
    t.outcome = some (.result (.temperature (.value 0x42C80000))) ∧ (framesOf t).length = 29 ∧ t.now = 250 := by
  decide +kernel

/-! ### Faults, reset and the reference chip -/

/-- B9: reserved code 0xD after reset is IllegalCommand, before NotInitialised. -/
theorem test_reserved_code : (nextOf (step (offering [.request (.command 0xD 0)]))).map (·.outcome)
    = some (some (.fault (.illegalCommand 0xD 0))) := by decide +kernel
/-- B9, C6: READTC before BEGIN. -/
theorem test_not_initialised : trace .readtc (fresh []) = some (some (.fault (.notInitialised 0x9)), []) := by
  decide +kernel
/-- C6: FDC reset clears the fault and leaves the chip. -/
theorem test_fdc_reset : (nextOf (step { stuck with inputs := [.fdcReset], regs := [(2, 0x00)] })).map
    (fun t => (t.fault, t.mode, t.begun, t.reg .mask)) = some (none, none, false, 0x00) := by decide +kernel
/-- C6: a BEGIN offered with a fault recorded has no step; the FDC reset behind it is next. -/
theorem test_stuck_drops_request :
    nextOf (step { stuck with inputs := [.request (.command 0 0), .fdcReset] })
      = some { stuck with inputs := [.fdcReset] } := by decide +kernel
/-- R142: a CR0 write of neither bit aborts no pending conversion; R914: it starts none; R121: with CMODE 0 the chip does
not run freely. -/
theorem test_write_of_neither_bit :
    (after (.wr8 0x00 0x00) { fresh [ok] with conv := .oneShot }).conv = .oneShot ∧
      (after (.wr8 0x00 0x00) (fresh [{ ok with pends := true }])).conv = .idle ∧
      (after (.wr8 0x00 0x00) { fresh [{ ok with pends := true }] with conv := .continuous }).conv = .idle := by
  decide +kernel
/-- R140, R150: the chip's own steps write CR0 by clearing 1SHOT only, and end a conversion but start none; R930: after a
chip reset it is idle. -/
theorem test_chip_moves :
    let s : State := { fresh [{ ok with chip := .act [(0, 0x80), (15, 0x01)] true true }] with regs := [(0, 0x50)] }
    s.moved.reg .cr0 = 0x10 ∧ s.moved.reg .sr = 0x01 ∧ s.moved.conv = .idle ∧
      { s with conv := .continuous, regs := [(0, 0x90)] }.moved.conv = .continuous ∧
      { s with conv := .oneShot }.moved.conv = .idle ∧
      { fresh [{ ok with chip := .reset }] with conv := .continuous, regs := [(0, 0x90)] }.moved.conv = .idle := by
  decide +kernel
/-- R151: the reference chip stores the byte at every address; a trigger while pending stops no conversion. -/
theorem test_reference_chip_writes :
    (after (.wr8 0x0F 0x55) (fresh [{ ok with chip := .reference }])).reg .sr = 0x55 ∧
      (after (.wr8 0x00 0x40) { fresh [{ ok with chip := .reference }] with conv := .oneShot }).conv = .oneShot := by
  decide +kernel
/-- R102, R420: the locals keep the bytes a read frame reads and none of a write frame's. -/
theorem test_locals_keep_read_bytes :
    let s : State := { fresh [ok] with seq := .busy .trigger 0 ⟨[], none, 0⟩ }
    (s.exchanged [0x00, 0xFF] [0x11, 0x22]).seq = .busy .trigger 1 ⟨[0x22], none, 1⟩ ∧
      (s.exchanged [0x80, 0x40] [0x11, 0x22]).seq = .busy .trigger 1 ⟨[], none, 1⟩ := by decide +kernel
/-- R151, C1: 15 ms after the trigger the reference chip stores its results and clears 1SHOT. -/
theorem test_reference_chip :
    let s := { inMode .oneShot [{ ok with chip := .reference }] with regs := [(0, 0x50)], conv := .oneShot, age := 15 }
    s.moved.reg .cr0 = 0x10 ∧ s.moved.ltcb = 0x019000 ∧ s.moved.conv = .idle ∧
      { s with age := 14 }.moved.reg .cr0 = 0x50 ∧
      { s with regs := [(0, 0x90)] }.moved.conv = .continuous := by decide +kernel
/-- R160: the count wraps; B8, elapsed is taken modulo 2^32. -/
theorem test_time_wraps : (sleep 32 { fresh [ok] with now := 0xFFFFFFF0 }).now = 0x10 ∧
    elapsed defaultConfig 0xFFFFFFF0 0x10 = 32 := by decide +kernel

/-! ### Decoders, encoders and text -/

/-- B3. -/
theorem test_decode_tc : [0x000000, 0x00001F, 0x000020, 0x019000, 0x7FFFE0, 0x7FFFFF, 0x800000, 0x800020, 0xFE7000,
      0xFFFFE0, 0xFFFFFF, 0xFFFFDF].map decodeTc
    = [0x00000000, 0x00000000, 0x3C000000, 0x41C80000, 0x44FFFFC0, 0x44FFFFC0, 0xC5000000, 0xC4FFFFC0, 0xC1C80000,
       0xBC000000, 0xBC000000, 0xBC800000] := by decide +kernel
/-- B4. -/
theorem test_decode_cj : [0x0000, 0x0001, 0x1680, 0x1900, 0x7FFF, 0x8000, 0xE700, 0xFFFC, 0xFFFF].map decodeCj
    = [0x00000000, 0x3B800000, 0x41B40000, 0x41C80000, 0x42FFFE00, 0xC3000000, 0xC1C80000, 0xBC800000,
       0xBB800000] := by decide +kernel
/-- B5: 100.07, 1.99, 0.03, -0.03, -0.0, -0.0625, -0.0626, 2047.99, -2048.05, -2048.06. -/
theorem test_encode_threshold : [0x42C823D7, 0x3FFEB852, 0x3CF5C28F, 0xBCF5C28F, 0x80000000, 0xBD800000, 0xBD80346E,
      0x44FFFFAE, 0xC50000CD, 0xC50000F6].map encodeTcThreshold
    = [some 0x0641, some 0x001F, some 0x0000, some 0x0000, some 0x0000, some 0xFFFF, some 0xFFFF, some 0x7FFF,
       some 0x8000, some 0x8000] := by decide +kernel
/-- B5: 2048.0, -2048.0625, NaN, +inf, -inf raise. -/
theorem test_encode_threshold_range : [0x45000000, 0xC5000100, 0x7FC00000, 0x7F800000, 0xFF800000].map
    encodeTcThreshold = [none, none, none, none, none] := by decide +kernel
/-- R530's table: OPEN is bit 0, CJRANGE bit 7. -/
theorem test_fault_flags : flagSet defaultConfig 0x01 .openCircuit = true ∧ flagSet defaultConfig 0x01 .cjRange = false ∧
    flagSet defaultConfig 0x80 .cjRange = true := by decide +kernel
/-- R340's examples. -/
theorem test_text : instrText defaultConfig (.settcthr 0xC1200000 0x42AA0000) = "SETTCTHR -10.0, 85.0" ∧
    instrText defaultConfig (.settctype 0xC) = "SETTCTYPE G32" ∧
    frameText [0x80, 0x50] [0, 0] = "WR8 0x00, 0x50" ∧ bytesText [0x80, 0x50] = "[80 50]" ∧
    frameText [0x0A, 0xFF, 0xFF] [0, 0x19, 0x00] = "RD16 0x0A -> [0x19, 0x00]" := by decide +kernel

/-! ### Witnesses: states that meet the hypotheses of each statement, at the ends of each range -/

theorem ready_fresh (script : List Draw) : Ready (fresh script) := ⟨rfl, rfl⟩

theorem operational_inMode (m : Mode) (script : List Draw) : Operational (inMode m script) := ⟨rfl, rfl, rfl⟩

theorem witness_FdcResetRestoresResetValues :
    ({ stuck with begun := true, inputs := [.fdcReset, .chipReset] } : State).inputs = .fdcReset :: [.chipReset] := rfl

theorem witness_ChipResetRestoresRegisters :
    let s : State := { inMode .continuous [] with regs := [(0, 0x80)], inputs := [.chipReset] }
    s.inputs = .chipReset :: [] ∧ s.cfg.wellFormed = true := by decide +kernel

theorem witness_PowerCycleKeepsNothing :
    let s : State := { inMode .continuous [] with regs := [(0, 0x80)], inputs := [.powerCycle] }
    s.inputs = .powerCycle :: [] ∧ s.cfg.wellFormed = true := by decide +kernel

theorem witness_StepRunsDecodedInstruction :
    (offering [.request (.command 9 0)]).inputs = .request (.command 9 0) :: [] ∧
      Ready (offering [.request (.command 9 0)]) ∧ decode (.command 9 0) = .instr .readtc :=
  ⟨rfl, ⟨rfl, rfl⟩, by decide⟩

theorem witness_RequestsAfterFaultHaveNoStep :
    let s : State := { stuck with inputs := [.request (.command 0 0), .fdcReset] }
    s.fault = some (.notInitialised 9) ∧ s.inputs = [Request.command 0 0].map .request ++ [.fdcReset] := ⟨rfl, rfl⟩

/-- Both clauses, READTC's poll running and a BEGIN offered. -/
theorem witness_RequestWhileBusyIsNotTaken :
    let s : State := { inMode .oneShot [] with
      seq := .busy .readtc pollHead ⟨[], some 0, 2⟩, inputs := [.request (.command 0 0)] }
    s.fault = none ∧ s.seq ≠ .idle ∧ s.inputs = .request (.command 0 0) :: [] ∧
      s.seq = .busy .readtc pollHead ⟨[], some 0, 2⟩ := by decide +kernel

theorem witness_UndecodableRequestIsIllegal :
    Ready (offering [.request (.command 0xF 7)]) ∧ decode (.command 0xF 7) = .reject (.reservedCode 0xF) ∧
      decode (.frame [0x10, 0xFF]) = .reject (.badAddress 0x10) ∧
      decode (.readModifyWrite 0x90 1 1) = .reject (.badAddress 0x10) := ⟨⟨rfl, rfl⟩, by decide⟩

theorem witness_IdleFdcWaits : State.reset.inputs = [] ∧ State.reset.seq = .idle := ⟨rfl, rfl⟩

theorem witness_DecodeOfEncode :
    ([.rd8 0x0F, .rd16 0x0E, .rd24 0x0D, .wr8 0x0F 0xFF, .rmw 0x0F 0xFF 0xFF, .setmode 2, .settctype 0xFF] :
      List Instr).all Instr.wellFormed = true := by decide +kernel

theorem witness_RecordedFaultStopsEveryInstruction : stuck.fault.isSome = true := rfl

theorem witness_FaultClearedOnlyByReset :
    stuck.fault = some (.notInitialised 9) ∧ HostInput.fdcReset ∉ stuck.inputs ∧ HostInput.powerCycle ∉ stuck.inputs ∧
      ∃ t, Host.Core.run core 2 stuck = .next t := ⟨rfl, by decide, by decide, _, rfl⟩

theorem witness_NotInitialisedBeforeBegin : Ready (fresh []) ∧ (fresh []).begun = false ∧
    Instr.getmode.code = some 2 ∧ Instr.getmode ≠ .begin ∧ Instr.getmode ≠ .setmode 3 :=
  ⟨⟨rfl, rfl⟩, rfl, by decide, by decide, by decide⟩

theorem witness_ModeCodeThreeIsIllegal : Ready (fresh []) ∧ Ready (inMode .continuous []) :=
  ⟨⟨rfl, rfl⟩, ⟨rfl, rfl⟩⟩

/-- Each clause at its first illegal address, and with bit 7 set by the caller. -/
theorem witness_IllegalFramesRaiseBeforeExchange : Ready (fresh []) ∧ 16 ≤ ((0x10 : Byte) &&& 0x7F#8).toNat ∧
    15 ≤ ((0x0F : Byte) &&& 0x7F#8).toNat ∧ 14 ≤ ((0x0E : Byte) &&& 0x7F#8).toNat ∧
    16 ≤ ((0x90 : Byte) &&& 0x7F#8).toNat := ⟨⟨rfl, rfl⟩, by decide⟩

theorem witness_TransportFailEndsCommand : (nextOf (exec (.setmode 2) (inMode .oneShot [ok, fails]))).map (·.fault)
    = some (some (.transportFail [0x80, 0x80] 2)) := by decide +kernel

/-- A step whose second exchange fails, the first having been answered. -/
theorem witness_LostFrameRaisesTransportFail :
    let s : State := { inMode .oneShot [ok, fails] with inputs := [.request (.command 6 0)] }
    (nextOf (step s)).map (·.wire) = some ([] ++ .exchanged [0x00, 0xFF] [0, 0] :: [.failed [0x80, 0x40]]) ∧
      (Event.failed [0x80, 0x40]).frame = some [0x80, 0x40] ∧ answers (s.drawAt 0) 2 = true ∧
      answers (s.drawAt 1) 2 = false := by decide +kernel

/-- BEGIN before a BEGIN, its last exchange failing; a framer call; READTC's first check. -/
theorem witness_EachExchangeMayFail :
    let s := fresh (List.replicate 8 ok ++ [fails])
    let u := inMode .oneShot [ok, ok, fails]
    Ready s ∧ s.cfg.wellFormed = true ∧ Instr.begin ≠ .setmode 3 ∧ (exchangeLengths .begin s)[7]? = some 2 ∧
      s.answersFrom (drawnBefore .begin) ((exchangeLengths .begin s).take 7) = true ∧
      answers (s.drawAt (drawnBefore .begin + 7)) 2 = false ∧
      isCommand (.rd8 0x8F) = false ∧ (exchangeLengths (.rd8 0x8F) (fresh [fails]))[0]? = some 2 ∧
      answers ((fresh [fails]).drawAt 0) 2 = false ∧
      Ready u ∧ u.begun = true ∧ (exchangeLengths .readtc u)[2]? = some 2 ∧
      u.answersFrom (drawnBefore .readtc) ((exchangeLengths .readtc u).take 2) = true ∧
      answers (u.drawAt (drawnBefore .readtc + 2)) 2 = false :=
  ⟨⟨rfl, rfl⟩, by decide +kernel, by decide, by decide +kernel, by decide +kernel, by decide +kernel, by decide,
    by decide +kernel, by decide +kernel, ⟨rfl, rfl⟩, by decide +kernel⟩

theorem witness_OtherFaultsTouchNothing :
    (inMode .oneShot []).cfg.wellFormed = true ∧
    (nextOf (exec (.settcthr 0 0x45000000) (inMode .oneShot []))).map (·.fault)
      = some (some (.operandRange 0x45000000)) ∧ faultCode (.operandRange 0x45000000) ≠ 4 := by decide +kernel

/-- Each clause at its last legal address, answering and failing, and at its first illegal one. -/
theorem witness_ReadFramesReturnReceivedBytes : Ready (fresh [ok]) ∧
    0x0F < ((0x90 : Byte) &&& 0x7F#8).toNat ∧ 0x0E < ((0x0F : Byte) &&& 0x7F#8).toNat ∧
    0x0D < ((0x0E : Byte) &&& 0x7F#8).toNat ∧
    ((0x8F : Byte) &&& 0x7F#8).toNat ≤ 0x0F ∧ (fresh [gives [1]]).reply [0x0F, 0xFF] = some [0, 1] ∧
    ((0x0E : Byte) &&& 0x7F#8).toNat ≤ 0x0E ∧ (fresh [gives [1, 2]]).reply [0x0E, 0xFF, 0xFF] = some [0, 1, 2] ∧
    ((0x0D : Byte) &&& 0x7F#8).toNat ≤ 0x0D ∧
    (fresh [gives [1, 2, 3]]).reply [0x0D, 0xFF, 0xFF, 0xFF] = some [0, 1, 2, 3] ∧
    (fresh [fails]).reply [0x0F, 0xFF] = none ∧ (fresh [fails]).reply [0x0E, 0xFF, 0xFF] = none ∧
    (fresh [gives [1]]).reply [0x0D, 0xFF, 0xFF, 0xFF] = none := ⟨⟨rfl, rfl⟩, by decide +kernel⟩

theorem witness_ReplyHoldsAscendingRegisters : wired (fresh [ok]).draw = true ∧ readFits 0x0D 3 = true ∧
    readFits 0x0F 1 = true := by decide +kernel

/-- Each clause: the last register and the last one whose byte is kept, a one-shot trigger, a free-running start, a write
of neither bit while a conversion is pending. -/
theorem witness_WriteFrameStoresByte : Ready (fresh [ok]) ∧ answers (fresh [ok]).draw 2 = true ∧
    ((0x8F : Byte) &&& 0x7F#8).toNat ≤ 0x0F ∧ ((0x8F : Byte) &&& 0x7F#8).toNat ≠ regAddr (fresh [ok]).cfg .cr0 ∧
    ((0x00 : Byte) &&& 0x7F#8).toNat = regAddr (fresh [ok]).cfg .cr0 ∧ (fresh [ok]).moved.conv ≠ .oneShot ∧
    chipOwns (fresh [ok]).cfg 0x09 = false ∧ chipOwns (fresh [ok]).cfg 0x0F = true ∧
    oneShotSet (fresh [ok]).cfg 0x40 = true ∧ cmodeSet (fresh [ok]).cfg 0x40 = false ∧
    cmodeSet (fresh [ok]).cfg 0x80 = true ∧ ({ fresh [ok] with conv := .oneShot } : State).moved.conv = .oneShot ∧
    oneShotSet (fresh [ok]).cfg 0x10 = false ∧ cmodeSet (fresh [ok]).cfg 0x10 = false := ⟨⟨rfl, rfl⟩, by decide +kernel⟩

/-- Each clause: an illegal address, the read failing, the write failing, both answering. -/
theorem witness_RmwMergesOwnedBits : Ready (fresh [ok, ok]) ∧ 0x0F < ((0x90 : Byte) &&& 0x7F#8).toNat ∧
    (fresh [fails]).reply [0x0F, 0xFF] = none ∧ (fresh [gives [7], gives [1, 2]]).reply [0x0F, 0xFF] = some [0, 7] ∧
    answers ((fresh [gives [7], gives [1, 2]]).drawAt 1) 2 = false ∧ ((0x0F : Byte) &&& 0x7F#8).toNat ≤ 0x0F ∧
    chipOwns (fresh [ok, ok]).cfg 0x09 = false ∧ (fresh [ok, ok]).answersFrom 0 [2, 2] = true ∧
    ((0x80 : Byte) &&& 0x7F#8).toNat = regAddr (fresh [ok, ok]).cfg .cr0 ∧
    ((fresh [ok, ok]).exchanged [0x00, 0xFF] [0, 0]).moved.conv ≠ .oneShot := ⟨⟨rfl, rfl⟩, by decide +kernel⟩

theorem witness_BeginInitialises :
    let s := fresh (List.replicate 9 ok)
    Ready s ∧ s.cfg.wellFormed = true ∧ s.draw.granted = true ∧
      s.answersFrom 1 [2, 2, 2, 2, 2, 2, 2, 2] = true ∧ (∀ k < 9, noReset (s.drawAt k) = true) ∧
      (s.opened.sent [([0x82, 0x00], [0, 0]), ([0x00, 0xFF], [0, 0]), ([0x80, 0x10], [0, 0]), ([0x89, 0x00], [0, 0]),
        ([0x01, 0xFF], [0, 3]), ([0x81, 0x03], [0, 0]), ([0x00, 0xFF], [0, 0x10])]).moved.conv ≠ .oneShot :=
  ⟨⟨rfl, rfl⟩, by decide +kernel⟩

theorem witness_BeginReportsRefusedOpen :
    Ready (fresh [{ ok with granted := false }]) ∧ (fresh [{ ok with granted := false }]).draw.granted = false :=
  ⟨⟨rfl, rfl⟩, rfl⟩

theorem witness_SettctypeWritesLowNibble : Operational (inMode .continuous [ok, ok]) ∧
    (inMode .continuous [ok, ok]).cfg.wellFormed = true ∧
    (inMode .continuous [ok, ok]).answersFrom 0 [2, 2] = true := ⟨⟨rfl, rfl, rfl⟩, by decide +kernel⟩

theorem witness_GettctypeReturnsLowNibble : Operational (inMode .continuous [gives [0xA3]]) ∧
    (inMode .continuous [gives [0xA3]]).reply [regByte defaultConfig .cr1, defaultConfig.dummy] = some [0, 0xA3] :=
  ⟨⟨rfl, rfl, rfl⟩, by decide +kernel⟩

theorem witness_SetnfWritesBitZero : Operational (inMode .oneShot [gives [0x50], ok]) ∧
    (inMode .oneShot [gives [0x50], ok]).cfg.wellFormed = true ∧
    (inMode .oneShot [gives [0x50], ok]).answersFrom 0 [2, 2] = true := ⟨⟨rfl, rfl, rfl⟩, by decide +kernel⟩

theorem witness_SetcjthrWritesBothThresholds :
    let s := inMode .oneShot [ok, ok]
    Operational s ∧ s.cfg.wellFormed = true ∧ s.answersFrom 0 [2, 2] = true ∧ noReset (s.drawAt 1) = true :=
  ⟨⟨rfl, rfl, rfl⟩, by decide +kernel⟩

/-- The operands at both ends of the accepted range: -2048.06 and 2047.99. -/
theorem witness_SettcthrWritesFourBytes :
    let s := inMode .oneShot [ok, ok, ok, ok]
    Operational s ∧ s.cfg.wellFormed = true ∧ encodeTcThreshold 0xC50000F6 = some 0x8000 ∧
      encodeTcThreshold 0x44FFFFAE = some 0x7FFF ∧ s.answersFrom 0 [2, 2, 2, 2] = true ∧
      ∀ k < 4, noReset (s.drawAt k) = true := ⟨⟨rfl, rfl, rfl⟩, by decide +kernel⟩

/-- Either operand just outside: -2048.0625 and 2048.0. -/
theorem witness_SettcthrRefusesOutOfRange : Operational (inMode .oneShot []) ∧
    encodeTcThreshold 0xC5000100 = none ∧ encodeTcThreshold 0x45000000 = none ∧
    encodeTcThreshold 0 = some 0 := ⟨⟨rfl, rfl, rfl⟩, by decide +kernel⟩

theorem witness_ReadfaultReturnsStatus : Operational (inMode .oneShotNoWait [gives [0xFF]]) ∧
    (inMode .oneShotNoWait [gives [0xFF]]).reply [regByte defaultConfig .sr, defaultConfig.dummy] = some [0, 0xFF] :=
  ⟨⟨rfl, rfl, rfl⟩, by decide +kernel⟩

theorem witness_ReadcjReturnsDecodedValue :
    let s := inMode .continuous [gives [0x80, 0x00]]
    Operational s ∧ s.cfg.wellFormed = true ∧
      s.reply [regByte s.cfg .cjth, s.cfg.dummy, s.cfg.dummy] = some [0, 0x80, 0x00] :=
  ⟨⟨rfl, rfl, rfl⟩, by decide +kernel⟩

/-- With CMODE in bit 1 and 1SHOT in bit 5, and a bit that neither owns. -/
theorem witness_ModeBitsOwnTwoBits :
    let c := { defaultConfig with bitCmode := 1, bitOneShot := 5 }
    c.wellFormed = true ∧ (7 : Fin 8) ≠ c.bitCmode ∧ (7 : Fin 8) ≠ c.bitOneShot := by decide +kernel

theorem witness_SetmodeWritesBitsAndMirror : Operational (inMode .continuous [ok, ok]) ∧
    (inMode .continuous [ok, ok]).cfg.wellFormed = true ∧
    modeOf 0 = some .oneShot ∧ modeOf 2 = some .continuous ∧
    (inMode .continuous [ok, ok]).answersFrom 0 [2, 2] = true ∧
    ((inMode .continuous [ok, ok]).exchanged [0x00, 0xFF] [0, 0]).moved.conv ≠ .oneShot :=
  ⟨⟨rfl, rfl, rfl⟩, by decide +kernel⟩

theorem witness_GetmodeReturnsMirror : Operational (inMode .oneShotNoWait []) := ⟨rfl, rfl, rfl⟩

/-- Both clauses. -/
theorem witness_TriggerSetsOneShot : Operational (inMode .continuous []) ∧
    (inMode .continuous []).mode = some .continuous ∧ Operational (inMode .oneShotNoWait [ok, ok]) ∧
    (inMode .oneShotNoWait [ok, ok]).mode ≠ some .continuous ∧
    (inMode .oneShotNoWait [ok, ok]).cfg.wellFormed = true ∧
    (inMode .oneShotNoWait [ok, ok]).answersFrom 0 [2, 2] = true ∧
    ((inMode .oneShotNoWait [ok, ok]).exchanged [0x00, 0xFF] [0, 0]).moved.conv ≠ .oneShot :=
  ⟨⟨rfl, rfl, rfl⟩, rfl, ⟨rfl, rfl, rfl⟩, by decide +kernel⟩

/-- Both clauses; CR0 read with 1SHOT set and clear. -/
theorem witness_ConvdoneReportsOneShotBit : Operational (inMode .continuous []) ∧
    (inMode .continuous []).mode = some .continuous ∧ Operational (inMode .oneShot [gives [0x40]]) ∧
    (inMode .oneShot [gives [0x40]]).mode ≠ some .continuous ∧
    (inMode .oneShot [gives [0x40]]).reply [regByte defaultConfig .cr0, defaultConfig.dummy] = some [0, 0x40] ∧
    (inMode .oneShot [gives [0xBF]]).reply [regByte defaultConfig .cr0, defaultConfig.dummy] = some [0, 0xBF] :=
  ⟨⟨rfl, rfl, rfl⟩, rfl, ⟨rfl, rfl, rfl⟩, by decide +kernel⟩

theorem witness_ReadtcReadsAtOnce :
    let s := inMode .oneShotNoWait [gives [0xFF, 0xFF, 0xFF]]
    Operational s ∧ s.cfg.wellFormed = true ∧ s.mode ≠ some .oneShot ∧
      s.reply [regByte s.cfg .ltcbh, s.cfg.dummy, s.cfg.dummy, s.cfg.dummy] = some [0, 0xFF, 0xFF, 0xFF] :=
  ⟨⟨rfl, rfl, rfl⟩, by decide +kernel⟩

/-- The chip clears 1SHOT before the check in the first state and not in the second. -/
theorem witness_ReadtcTriggersAndChecks :
    let s := inMode .oneShot [ok, ok, gives [0x10], ok]
    let u := inMode .oneShot [ok, ok, gives [0x50], ok]
    Operational s ∧ Operational u ∧ s.cfg.wellFormed = true ∧ s.mode = some .oneShot ∧
      s.answersFrom 0 [2, 2, 2, 4] = true ∧ u.answersFrom 0 [2, 2, 2, 4] = true ∧
      oneShotSet s.cfg 0x10 = false ∧ oneShotSet s.cfg 0x50 = true :=
  ⟨⟨rfl, rfl, rfl⟩, ⟨rfl, rfl, rfl⟩, by decide +kernel⟩

/-- Both clauses: a whole poll, and one left at its loop head whose start time is 251 ms ago. -/
theorem witness_TimeoutIsNeverEarly :
    let s : State := { inMode .oneShot [gives [0x50]] with now := 251, seq := .busy .readtc pollHead ⟨[], some 0, 2⟩ }
    (nextOf (exec .readtc neverDone)).map (·.outcome) = some (some (.result (.temperature .nan))) ∧
      s.seq = .busy .readtc pollHead ⟨[], some 0, 2⟩ ∧ s.outcome = none ∧
      (nextOf (step s)).map (·.outcome) = some (some (.result (.temperature .nan))) := by decide +kernel

/-- Answers of an oracle (C4), an exchange that fails at the third check, and answers from registers that never clear
1SHOT; every sleep is exact. -/
theorem witness_PollEndsWithinBound :
    let within := fun s : State => s.cfg.wellFormed = true ∧ s.mode = some .oneShot ∧ pollBudget s.cfg = 27 ∧
      ((List.range 55).map (fun k => (s.drawAt k).ms)).sum + 27 * s.cfg.pollMs < 2 ^ s.cfg.timeWidth
    let failing := inMode .oneShot (List.replicate 6 ok ++ [fails] ++ List.replicate 48 ok)
    let registers := inMode .oneShot (List.replicate 56 ok)
    (Operational neverDone ∧ within neverDone) ∧
      (Operational failing ∧ within failing ∧
        (after .readtc failing).outcome = some (.fault (.transportFail [0x00, 0xFF] 5))) ∧
      Operational registers ∧ within registers ∧ ∀ k < 56, wired (registers.drawAt k) = true :=
  ⟨⟨⟨rfl, rfl, rfl⟩, by decide +kernel⟩, ⟨⟨rfl, rfl, rfl⟩, by decide +kernel⟩, ⟨rfl, rfl, rfl⟩, by decide +kernel⟩

/-- The chip holds the results 0x019000 and 0x1900 of a conversion that has completed. -/
def converted (m : Mode) (script : List Draw) : State :=
  { inMode m script with regs := [(0, 0x10), (10, 0x19), (12, 0x01), (13, 0x90)] }

/-- A poll left at its loop head in such a state. -/
def polling : State := { converted .oneShot [ok, ok] with seq := .busy .readtc pollHead ⟨[], some 7, 2⟩ }

/-- A chip that stores those results and clears 1SHOT before READTC's 27th check, the last one R742 allows. -/
def converting : State :=
  inMode .oneShot ([ok, ok] ++ List.replicate 52 ok ++
    [{ ok with chip := .act [(10, 0x19), (12, 0x01), (13, 0x90)] true true }, ok])

/-- The chip of `converting` at READTC's start time. -/
def started : State := (converting.exchanged [0x00, 0xFF] [0, 0]).exchanged [0x80, 0x40] [0, 0]

/-- The chip after this many checks that read 0x40. -/
def passes : Nat → State → State
  | 0, s => s
  | n + 1, s => passes n (s.pollPass [0, 0x40])

/-- The poll makes them, each within 250 ms of its start. -/
def pollsOn (start : Nat) : Nat → State → Bool
  | 0, _ => true
  | n + 1, s =>
    decide (s.reply [regByte s.cfg .cr0, s.cfg.dummy] = some [0, 0x40]) && oneShotSet s.cfg 0x40 &&
      decide (elapsed s.cfg start (s.exchanged [regByte s.cfg .cr0, s.cfg.dummy] [0, 0x40]).time ≤ timeoutMs) &&
      pollsOn start n (s.pollPass [0, 0x40])

theorem pollReaches_passes {start : Nat} :
    ∀ {n : Nat} {s : State}, pollsOn start n s = true → PollReaches start n s (passes n s)
  | 0, s, _ => .here s
  | n + 1, s, h => by
    simp only [pollsOn, Bool.and_eq_true, decide_eq_true_eq] at h
    exact .again h.1.1.1 h.1.1.2 h.1.2 (pollReaches_passes h.2)

/-- Both clauses: the last check READTC makes in its poll, and the next check of a poll left running. -/
theorem witness_PollReturnsChipResult :
    (converting.fault = none ∧ converting.cfg.wellFormed = true ∧ converting.mode = some .oneShot ∧
      converting.seq = .idle ∧ converting.begun = true ∧ 26 < pollBudget converting.cfg ∧
      [regByte converting.cfg .cr0, converting.cfg.dummy] = [0x00, 0xFF] ∧
      [regByte converting.cfg .cr0 ||| 0x80#8, merge 0x00 (modeMask converting.cfg) (oneShotMask converting.cfg)]
        = [0x80, 0x40] ∧
      converting.reply [0x00, 0xFF] = some [0, 0x00] ∧
      (converting.exchanged [0x00, 0xFF] [0, 0x00]).reply [0x80, 0x40] = some [0, 0]) ∧
    PollReaches started.time 26 started (passes 26 started) ∧ oneShotSet converting.cfg 0x00 = false ∧
    (passes 26 started).reply [0x00, 0xFF] = some [0, 0x00] ∧
    ChipResultValid ((passes 26 started).exchanged [0x00, 0xFF] [0, 0x00]) 0x019000 0x1900 ∧
    (polling.inputs = [] ∧ polling.fault = none ∧ polling.cfg.wellFormed = true ∧ polling.mode = some .oneShot ∧
      polling.seq = .busy .readtc pollHead ⟨[], some 7, 2⟩ ∧ 0 < pollBudget polling.cfg) ∧
    PollReaches 7 0 polling polling ∧ oneShotSet polling.cfg 0x10 = false ∧
    polling.reply [0x00, 0xFF] = some [0, 0x10] ∧
    ChipResultValid (polling.exchanged [0x00, 0xFF] [0, 0x10]) 0x019000 0x1900 :=
  ⟨by decide +kernel, pollReaches_passes (by decide +kernel), by decide +kernel, by decide +kernel,
    ⟨by decide +kernel, by decide +kernel, by decide +kernel, ⟨0, by decide +kernel⟩, ⟨0, by decide +kernel⟩⟩,
    by decide +kernel, .here _, by decide +kernel, by decide +kernel,
    ⟨by decide +kernel, by decide +kernel, by decide +kernel, ⟨0, by decide +kernel⟩, ⟨0, by decide +kernel⟩⟩⟩

/-- A SETMODE in Continuous, with code 0 and with the reserved code 3, which records IllegalCommand; and a request offered
with that fault recorded. -/
theorem witness_StepKeepsModeMirror :
    let s : State := { inMode .continuous [ok, ok] with regs := [(0, 0x80)], inputs := [.request (.command 1 0)] }
    let u : State := { s with inputs := [.request (.command 1 3)] }
    let v : State := { s with fault := some (.illegalCommand 1 3) }
    (s.cfg.wellFormed = true ∧ Mirror s ∧ FdcOnly s ∧ ∃ t, step s = .next t ∧ AllDrawn s t lawful) ∧
    (Mirror u ∧ FdcOnly u ∧ ∃ t, step u = .next t ∧ AllDrawn u t lawful ∧ t.fault = v.fault) ∧
    (Mirror v ∧ FdcOnly v ∧ ¬ LostCr0Write v ∧ ∃ t, step v = .next t ∧ AllDrawn v t lawful) := by
  have mirror : ∀ s : State, s.mode = some .continuous → cmodeSet s.cfg (s.reg .cr0) = true → Mirror s := by
    intro s hm hc _ m h
    rw [hm] at h
    cases h
    exact ⟨fun _ => rfl, fun _ => hc⟩
  refine ⟨⟨by decide +kernel, mirror _ rfl (by decide +kernel), trivial, _, rfl, fun k hk => ?_⟩,
    ⟨mirror _ rfl (by decide +kernel), trivial, _, rfl, fun k hk => ?_, rfl⟩,
    mirror _ rfl (by decide +kernel), trivial, (fun ⟨_, _, h⟩ => by cases h), _, rfl, fun k hk => ?_⟩
  · have hk : 0 + k < 2 := hk
    match k, hk with
    | 0, _ => rfl
    | 1, _ => rfl
  · exact absurd (hk : 0 + k < 0) (Nat.not_lt_zero _)
  · exact absurd (hk : 0 + k < 0) (Nat.not_lt_zero _)

theorem witness_ReferenceChipCompletes :
    let s : State := { inMode .oneShot [{ ok with chip := .reference }] with regs := [(0, 0x50)], conv := .oneShot, age := 15 }
    s.cfg.wellFormed = true ∧ s.draw.chip = .reference ∧ s.conv = .oneShot ∧ s.cfg.refMs ≤ s.age := by decide +kernel

end Sys2Proof.Tests
end

section
/-! PROOFS. What one command can do, said once: it is a chain of the shared operations of 40_register_access.md, each at
the registers the instruction's table entry names. A frame or an invariant is proved over the operations. -/

namespace Sys2Proof.Machine

/-! ### The registers of a command, by operation -/

/-- The registers a host command writes with no read before (42_init_and_config.md R600, R640, R650). -/
def plainWrites : Instr → List Reg
  | .begin => [.mask, .cjto]
  | .settcthr _ _ => [.lthfth, .lthftl, .ltlfth, .ltlftl]
  | .setcjthr _ _ => [.cjlf, .cjhf]
  | _ => []

/-- The read-modify-writes of a host command, as register, mask and value, but for those that set a mode
(42_init_and_config.md R600, R610, R630; 43_conversion_mode.md R720, R740). -/
def modifies (i : Instr) (s : State) : List (Reg × Byte × Byte) :=
  match i with
  | .begin =>
    [(.cr0, ocfault0Mask s.cfg, ocfault0Mask s.cfg),
     (.cr1, tcTypeMask, (encodeType ((tcEntry s.cfg.tcCode .k).setWidth 8)).setWidth 8)]
  | .settctype t => [(.cr1, tcTypeMask, (encodeType t).setWidth 8)]
  | .setnf f => [(.cr0, nfMask, nfBit s.cfg f)]
  | .trigger => if s.mode = some .continuous then [] else [(.cr0, modeMask s.cfg, oneShotMask s.cfg)]
  | .readtc => if s.mode = some .oneShot then [(.cr0, modeMask s.cfg, oneShotMask s.cfg)] else []
  | _ => []

/-! ### Operations -/

/-- A piece of a command ended in a fault. -/
def Run.faulted {α : Type} : Run α → Bool
  | .raised _ => true
  | .done _ _ | .waiting _ => false

/-- One shared operation of an instruction, from state to state, and whether it ended in a fault. -/
inductive Op (i : Instr) : State → Bool → State → Prop
  | accepted (s : State) : Op i s false (accept i s)
  | delivered (r : Result) (s : State) : Op i s false { s with seq := .idle, outcome := some (.result r) }
  | refused {f : FdcFault} (s : State) (notLost : faultCode f ≠ 4) : Op i s true (raise f s)
  | opened (s : State) : Op i s false s.opened
  | timed (s : State) : Op i s false s.timed
  | slept (ms : Nat) (s : State) : Op i s false (sleep ms s)
  | sequenced (q : Seq) (s : State) : Op i s false { s with seq := q }
  | began (b : Bool) (s : State) (only : i = .begin) : Op i s false (s.setBegun b)
  | read (a : Byte) (n : Nat) (s : State) : Op i s (readReg a n s).faulted (readReg a n s).state
  | wrote {r : Reg} (v : Byte) (s : State) (own : r ∈ plainWrites i) :
      Op i s (memWrite r v s).faulted (memWrite r v s).state
  | modified {r : Reg} {m x : Byte} (s : State) (own : (r, m, x) ∈ modifies i s) :
      Op i s (rmwReg r m x s).faulted (rmwReg r m x s).state
  | moded (m : Mode) (s : State) (only : i = .begin ∨ ∃ code, i = .setmode code) :
      Op i s (setModeBody m s).faulted (setModeBody m s).state
  | wroteAt (a d : Byte) (s : State) (only : i = .wr8 a d) : Op i s (writeReg a d s).faulted (writeReg a d s).state
  | modifiedAt (a m x : Byte) (s : State) (only : i = .rmw a m x) : Op i s (rmw a m x s).faulted (rmw a m x s).state

/-- Operations one after the other; none follows a fault (00_scope.md R17). -/
inductive Ops (i : Instr) : State → Bool → State → Prop
  | empty (s : State) : Ops i s false s
  | one {s : State} {f : Bool} {t : State} (h : Op i s f t) : Ops i s f t
  | seq {s u : State} {f : Bool} {t : State} (head : Ops i s false u) (rest : Ops i u f t) : Ops i s f t

theorem Run.andThen_ops {α β : Type} {i : Instr} {s : State} {r : Run α} {g : α → State → Run β}
    (h : Ops i s r.faulted r.state) (hg : ∀ a u, r = .done a u → Ops i u (g a u).faulted (g a u).state) :
    Ops i s (r.andThen g).faulted (r.andThen g).state := by
  cases r with
  | done a u => exact .seq h (hg a u rfl)
  | raised u => exact h
  | waiting u => exact h

theorem finish_ops {i : Instr} {s : State} {r : Run Result} (h : Ops i s r.faulted r.state) :
    Ops i s r.faulted (finish r) := by
  cases r with
  | done a u => exact .seq h (.one (.delivered a u))
  | raised u => exact h
  | waiting u => exact h

theorem triggerBody_ops {i : Instr} {s : State}
    (own : s.mode ≠ some .continuous → (.cr0, modeMask s.cfg, oneShotMask s.cfg) ∈ modifies i s) :
    Ops i s (triggerBody s).faulted (triggerBody s).state := by
  unfold triggerBody
  split
  · exact .empty s
  · exact .one (.modified s (own ‹_›))

theorem completeBody_ops (i : Instr) (s : State) : Ops i s (completeBody s).faulted (completeBody s).state := by
  unfold completeBody
  split
  · exact .empty s
  · exact Run.andThen_ops (.one (.read _ _ s)) fun _ u _ => .empty u

theorem readTcValue_ops (i : Instr) (s : State) : Ops i s (readTcValue s).faulted (readTcValue s).state :=
  Run.andThen_ops (.seq (.one (.sequenced _ s)) (.one (.read _ _ _))) fun _ u _ => .empty u

theorem pollLoop_ops (i : Instr) (n start : Nat) (s : State) :
    Ops i s (pollLoop n start s).faulted (pollLoop n start s).state := by
  induction n generalizing s with
  | zero => exact .empty s
  | succ n ih =>
    refine Run.andThen_ops (completeBody_ops i s) fun complete u _ => ?_
    simp only
    split
    · exact readTcValue_ops i u
    · split
      · exact .one (.timed u)
      · exact .seq (.one (.timed u)) (.seq (.one (.slept _ _)) (.seq (.one (.sequenced _ _)) (ih _)))

theorem readTcBody_ops (s : State) : Ops .readtc s (readTcBody s).faulted (readTcBody s).state := by
  unfold readTcBody
  split
  · rename_i hm
    refine Run.andThen_ops (triggerBody_ops fun _ => by simp [modifies, hm]) fun _ u _ => ?_
    exact .seq (.one (.timed u)) (.seq (.one (.sequenced _ _)) (pollLoop_ops _ _ _ _))
  · exact readTcValue_ops _ s

theorem beginBody_ops (s : State) : Ops .begin s (beginBody s).faulted (beginBody s).state := by
  refine Run.andThen_ops (.one (.opened s)) fun granted u _ => ?_
  split
  · refine Run.andThen_ops (.one (.wrote _ u (by simp [plainWrites]))) fun _ u _ => ?_
    refine Run.andThen_ops (.one (.modified u (by simp [modifies]))) fun _ u _ => ?_
    refine Run.andThen_ops (.one (.wrote _ u (by simp [plainWrites]))) fun _ u _ => ?_
    refine Run.andThen_ops (.one (.modified u (by simp [modifies]))) fun _ u _ => ?_
    refine Run.andThen_ops (.one (.moded _ u (.inl rfl))) fun _ u _ => ?_
    exact .one (.began true u rfl)
  · exact .one (.began false u rfl)

theorem writeTcThresholds_ops (flow fhigh : F32) (lo hi : BitVec 16) (s : State) :
    Ops (.settcthr flow fhigh) s (writeTcThresholds lo hi s).faulted (writeTcThresholds lo hi s).state := by
  refine Run.andThen_ops (.one (.wrote _ s (by simp [plainWrites]))) fun _ u _ => ?_
  refine Run.andThen_ops (.one (.wrote _ u (by simp [plainWrites]))) fun _ u _ => ?_
  refine Run.andThen_ops (.one (.wrote _ u (by simp [plainWrites]))) fun _ u _ => ?_
  exact Run.andThen_ops (.one (.wrote _ u (by simp [plainWrites]))) fun _ u _ => .empty u

/-- What an instruction does once admitted is a chain of its operations. -/
theorem body_ops (i : Instr) (s : State) : Ops i s (body i s).faulted (body i s).state := by
  cases i with
  | rd8 a => exact Run.andThen_ops (.one (.read _ _ s)) fun _ u _ => .empty u
  | rd16 a => exact Run.andThen_ops (.one (.read _ _ s)) fun _ u _ => .empty u
  | rd24 a => exact Run.andThen_ops (.one (.read _ _ s)) fun _ u _ => .empty u
  | wr8 a d => exact Run.andThen_ops (.one (.wroteAt a d s rfl)) fun _ u _ => .empty u
  | rmw a m x => exact Run.andThen_ops (.one (.modifiedAt a m x s rfl)) fun _ u _ => .empty u
  | begin => exact beginBody_ops s
  | setmode m =>
    simp only [body]
    split
    · exact Run.andThen_ops (.one (.moded _ s (.inr ⟨m, rfl⟩))) fun _ u _ => .empty u
    · exact .one (.refused s (by simp [faultCode]))
  | getmode => exact .empty s
  | settctype t => exact Run.andThen_ops (.one (.modified s (by simp [modifies]))) fun _ u _ => .empty u
  | gettctype => exact Run.andThen_ops (.one (.read _ _ s)) fun _ u _ => .empty u
  | readfault => exact Run.andThen_ops (.one (.read _ _ s)) fun _ u _ => .empty u
  | trigger => exact Run.andThen_ops (triggerBody_ops fun hm => by simp [modifies, hm]) fun _ u _ => .empty u
  | convdone => exact Run.andThen_ops (completeBody_ops _ s) fun _ u _ => .empty u
  | readcj => exact Run.andThen_ops (.one (.read _ _ s)) fun _ u _ => .empty u
  | readtc => exact readTcBody_ops s
  | settcthr flow fhigh =>
    simp only [body]
    split
    · exact .one (.refused s (by simp [faultCode]))
    · split
      · exact .one (.refused s (by simp [faultCode]))
      · exact writeTcThresholds_ops flow fhigh _ _ s
  | setcjthr low high =>
    refine Run.andThen_ops (.one (.wrote _ s (by simp [plainWrites]))) fun _ u _ => ?_
    exact Run.andThen_ops (.one (.wrote _ u (by simp [plainWrites]))) fun _ u _ => .empty u
  | setnf f => exact Run.andThen_ops (.one (.modified s (by simp [modifies]))) fun _ u _ => .empty u

/-- `Guard` never raises TransportFail (60_exceptions.md R850). -/
theorem guardFault_code {i : Instr} {s : State} {f : FdcFault} (h : guardFault i s = some f) : faultCode f ≠ 4 := by
  unfold guardFault at h
  split at h
  · cases h
  · split at h
    · cases h; simp [faultCode]
    · split at h <;> cases h; simp [faultCode]

/-- Every instruction's next state is reached by its operations. -/
theorem exec_ops {i : Instr} {s t : State} (h : exec i s = .next t) : ∃ f, Ops i s f t := by
  rw [exec_eq_command] at h
  rcases (command_next h).2 with ⟨f, hg, rfl⟩ | ⟨-, rfl⟩
  · exact ⟨true, .one (.refused s (guardFault_code hg))⟩
  · exact ⟨_, .seq (.one (.accepted s)) (finish_ops (body_ops i _))⟩

/-- So is the rest of a poll that was left running, by those of READTC. -/
theorem resume_ops {s t : State} (h : resume s = .next t) : s.fault = none ∧ ∃ f, Ops .readtc s f t := by
  unfold resume at h
  split at h
  · cases h
  · rename_i hf
    refine ⟨by simpa using hf, ?_⟩
    split at h
    · split at h
      · split at h
        · injection h with h; subst h; exact ⟨_, finish_ops (pollLoop_ops _ _ _ s)⟩
        · cases h
      · cases h
    · cases h

/-- An operation is made of primitives. -/
theorem Op.prims {i : Instr} {s t : State} {f : Bool} (h : Op i s f t) : Prims s t := by
  cases h with
  | accepted => exact .one (.accepted i s)
  | delivered r => exact .one (.delivered r s)
  | refused => exact .one (.raised _ s)
  | opened => exact .one (.opened s)
  | timed => exact .one (.timed s)
  | slept ms => exact .one (.slept ms s)
  | sequenced q => exact .one (.sequenced q s)
  | began b => exact .one (.began b s)
  | read a n => exact readReg_prims a n s
  | wrote v => exact writeReg_prims _ v s
  | modified => exact rmw_prims _ _ _ s
  | moded m => exact setModeBody_prims m s
  | wroteAt a d => exact writeReg_prims a d s
  | modifiedAt a m x => exact rmw_prims a m x s

theorem Ops.prims {i : Instr} {s t : State} {f : Bool} (h : Ops i s f t) : Prims s t := by
  induction h with
  | empty s => exact .refl
  | one h => exact h.prims
  | seq _ _ ih₁ ih₂ => exact ih₁.trans ih₂

end Sys2Proof.Machine
end

section
/-! PROOFS. What every command leaves as it was: the parameters, the queue, the answers and the wire so far; and which
commands write the mirror and `begun` (10_state.md R101). -/

namespace Sys2Proof.Machine

/-- A piece of a command keeps a transitive relation to the state it began in when its parts do. -/
theorem Run.andThen_rel {R : State → State → Prop} (trans : ∀ {s u t}, R s u → R u t → R s t) {α β : Type} {s : State}
    {r : Run α} {g : α → State → Run β} (h : R s r.state) (hg : ∀ a u, r = .done a u → R u (g a u).state) :
    R s (r.andThen g).state := by
  cases r with
  | done a u => exact trans h (hg a u rfl)
  | raised u => exact h
  | waiting u => exact h

/-! ### The parameters, the queue, the answers and the wire -/

/-- The parameters, what the host offers and the answers are as before, some answers may have been drawn, and the wire
has grown at its end. -/
structure Frame (s t : State) : Prop where
  cfg : t.cfg = s.cfg
  inputs : t.inputs = s.inputs
  script : t.script = s.script
  drawn : s.drawn ≤ t.drawn
  wire : s.wire <+: t.wire

theorem Frame.refl (s : State) : Frame s s := ⟨rfl, rfl, rfl, le_rfl, [], List.append_nil _⟩

theorem Frame.trans {s u t : State} (h₁ : Frame s u) (h₂ : Frame u t) : Frame s t :=
  ⟨h₂.cfg.trans h₁.cfg, h₂.inputs.trans h₁.inputs, h₂.script.trans h₁.script, h₁.drawn.trans h₂.drawn,
    h₁.wire.trans h₂.wire⟩

theorem Prim.frame {s t : State} (h : Prim s t) : Frame s t := by
  cases h <;> constructor <;> simp

theorem Prims.frame {s t : State} (h : Prims s t) : Frame s t := by
  induction h with
  | refl => exact .refl s
  | tail _ hq ih => exact ih.trans hq.frame

/-! ### The mirror and `begun` -/

theorem SameControl.refl (s : State) : SameControl s s := ⟨rfl, rfl⟩

theorem SameControl.trans {s u t : State} (h₁ : SameControl s u) (h₂ : SameControl u t) : SameControl s t :=
  ⟨h₂.1.trans h₁.1, h₂.2.trans h₁.2⟩

theorem readReg_sameControl (a : Byte) (n : Nat) (s : State) : SameControl s (readReg a n s).state := by
  rcases readReg_cases a n s with ⟨-, h⟩ | ⟨-, ⟨r, -, h⟩ | ⟨-, h⟩⟩ <;> rw [h] <;> constructor <;> simp

theorem writeReg_sameControl (a d : Byte) (s : State) : SameControl s (writeReg a d s).state := by
  rcases writeReg_cases a d s with ⟨-, h⟩ | ⟨-, ⟨r, -, h⟩ | ⟨-, h⟩⟩ <;> rw [h] <;> constructor <;> simp

theorem rmw_sameControl (a m x : Byte) (s : State) : SameControl s (rmw a m x s).state :=
  Run.andThen_rel (R := SameControl) SameControl.trans (readReg_sameControl a 1 s) fun _ u _ =>
    writeReg_sameControl a _ u

theorem setModeBody_begun (m : Mode) (s : State) : (setModeBody m s).state.begun = s.begun :=
  Run.andThen_rel (R := fun s t => t.begun = s.begun) (fun h₁ h₂ => h₂.trans h₁) (rmw_sameControl _ _ _ s).2
    fun _ _ _ => rfl

/-- Only BEGIN writes `begun` (R101). -/
theorem Op.begun {i : Instr} {s t : State} {f : Bool} (h : Op i s f t) (hb : i ≠ .begin) : t.begun = s.begun := by
  cases h with
  | began b _ only => exact absurd only hb
  | read a n => exact (readReg_sameControl a n s).2
  | wrote v => exact (writeReg_sameControl _ v s).2
  | modified => exact (rmw_sameControl _ _ _ s).2
  | moded m => exact setModeBody_begun m s
  | wroteAt a d => exact (writeReg_sameControl a d s).2
  | modifiedAt a m x => exact (rmw_sameControl a m x s).2
  | _ => simp

/-- Only BEGIN and SETMODE write the mirror (R101). -/
theorem Op.mode {i : Instr} {s t : State} {f : Bool} (h : Op i s f t) (hb : i ≠ .begin)
    (hm : ∀ code, i ≠ .setmode code) : t.mode = s.mode := by
  cases h with
  | began b _ only => exact absurd only hb
  | moded m _ only =>
    rcases only with only | ⟨code, only⟩
    · exact absurd only hb
    · exact absurd only (hm code)
  | read a n => exact (readReg_sameControl a n s).1
  | wrote v => exact (writeReg_sameControl _ v s).1
  | modified => exact (rmw_sameControl _ _ _ s).1
  | wroteAt a d => exact (writeReg_sameControl a d s).1
  | modifiedAt a m x => exact (rmw_sameControl a m x s).1
  | _ => simp

theorem Ops.begun {i : Instr} {s t : State} {f : Bool} (h : Ops i s f t) (hb : i ≠ .begin) : t.begun = s.begun := by
  induction h with
  | empty s => rfl
  | one h => exact h.begun hb
  | seq _ _ ih₁ ih₂ => exact ih₂.trans ih₁

theorem Ops.mode {i : Instr} {s t : State} {f : Bool} (h : Ops i s f t) (hb : i ≠ .begin)
    (hm : ∀ code, i ≠ .setmode code) : t.mode = s.mode := by
  induction h with
  | empty s => rfl
  | one h => exact h.mode hb hm
  | seq _ _ ih₁ ih₂ => exact ih₂.trans ih₁

/-- Settles O52: the frame holds of every primitive, and of an instruction's operations only those of BEGIN and SETMODE
write the mirror, only those of BEGIN write `begun`. -/
theorem fdcFieldsHaveSingleWriters : Obligations.FdcFieldsHaveSingleWriters := by
  intro i s t h
  obtain ⟨f, hops⟩ := exec_ops h
  obtain ⟨hcfg, hinputs, hscript, hdrawn, hwire⟩ := hops.prims.frame
  exact ⟨hcfg, hinputs, hscript, hdrawn, hwire, hops.begun, hops.mode⟩

end Sys2Proof.Machine
end

section
/-! PROOFS. Which registers a command's write frames address (10_state.md R130, 40_register_access.md R432). -/

namespace Sys2Proof.Machine

/-- An event is a write frame, exchanged or lost, that addresses this register. -/
def Event.Writes (e : Event) (a : Nat) : Prop := ∃ ab d, e.frame = some [ab, d] ∧ writtenReg ab = some a

/-- The wire has grown at its end by events whose write frames address only registers in `P`. -/
def WritesOnly (P : Nat → Prop) (s t : State) : Prop :=
  ∃ new, t.wire = s.wire ++ new ∧ ∀ e ∈ new, ∀ a, e.Writes a → P a

theorem WritesOnly.of_wire_eq {P : Nat → Prop} {s t : State} (h : t.wire = s.wire) : WritesOnly P s t :=
  ⟨[], by simp [h]⟩

theorem WritesOnly.of_event {P : Nat → Prop} {s t : State} {e : Event} (h : t.wire = s.wire ++ [e])
    (he : ∀ a, e.Writes a → P a) : WritesOnly P s t :=
  ⟨[e], h, by simpa using he⟩

theorem WritesOnly.trans {P : Nat → Prop} {s u t : State} (h₁ : WritesOnly P s u) (h₂ : WritesOnly P u t) :
    WritesOnly P s t := by
  obtain ⟨new₁, hw₁, hp₁⟩ := h₁
  obtain ⟨new₂, hw₂, hp₂⟩ := h₂
  refine ⟨new₁ ++ new₂, by rw [hw₂, hw₁, List.append_assoc], fun e he => ?_⟩
  rcases List.mem_append.1 he with he | he
  · exact hp₁ e he
  · exact hp₂ e he

/-- A frame that is no exchange writes nothing. -/
theorem Event.not_writes {e : Event} (h : e.frame = none) (a : Nat) : ¬ e.Writes a := by
  rintro ⟨ab, d, he, -⟩
  rw [h] at he
  cases he

theorem Event.not_writes_read {e : Event} {c : Config} {a : Byte} {n : Nat} (h : e.frame = some (readFrame c a n))
    (b : Nat) : ¬ e.Writes b := by
  rintro ⟨ab, d, he, hw⟩
  rw [h] at he
  injection he with he
  injection he with hab _
  rw [← hab, writtenReg_read] at hw
  cases hw

theorem Event.writes_write {e : Event} {a d : Byte} (ha : (a &&& 0x7F#8).toNat < 16)
    (h : e.frame = some (writeFrame a d)) {b : Nat} (hw : e.Writes b) : b = (a &&& 0x7F#8).toNat := by
  obtain ⟨ab, v, he, hw⟩ := hw
  rw [h] at he
  injection he with he
  injection he with hab _
  rw [← hab, writtenReg_write ha] at hw
  exact (Option.some.inj hw).symm

theorem readReg_writesOnly (P : Nat → Prop) (a : Byte) (n : Nat) (s : State) :
    WritesOnly P s (readReg a n s).state := by
  rcases readReg_cases a n s with ⟨-, h⟩ | ⟨-, ⟨r, -, h⟩ | ⟨-, h⟩⟩ <;> rw [h]
  · exact .of_wire_eq rfl
  · exact .of_event (State.exchanged_wire ..) fun b hb => (Event.not_writes_read rfl b hb).elim
  · exact .of_event (State.lostFrame_wire ..) fun b hb => (Event.not_writes_read rfl b hb).elim

theorem writeReg_writesOnly {P : Nat → Prop} {a : Byte} (hp : P (a &&& 0x7F#8).toNat) (d : Byte) (s : State) :
    WritesOnly P s (writeReg a d s).state := by
  rcases writeReg_cases a d s with ⟨-, h⟩ | ⟨ha, ⟨r, -, h⟩ | ⟨-, h⟩⟩ <;> rw [h]
  · exact .of_wire_eq rfl
  · exact .of_event (State.exchanged_wire ..) fun b hb => Event.writes_write ha rfl hb ▸ hp
  · exact .of_event (State.lostFrame_wire ..) fun b hb => Event.writes_write ha rfl hb ▸ hp

theorem rmw_writesOnly {P : Nat → Prop} {a : Byte} (hp : P (a &&& 0x7F#8).toNat) (m x : Byte) (s : State) :
    WritesOnly P s (rmw a m x s).state :=
  Run.andThen_rel (R := WritesOnly P) WritesOnly.trans (readReg_writesOnly P a 1 s) fun _ u _ =>
    writeReg_writesOnly hp _ u

theorem memWrite_writesOnly {P : Nat → Prop} {r : Reg} {s : State} (hp : P (regAddr s.cfg r)) (v : Byte) :
    WritesOnly P s (memWrite r v s).state :=
  writeReg_writesOnly (by rwa [regByte_masked, regByte_toNat]) v s

theorem rmwReg_writesOnly {P : Nat → Prop} {r : Reg} {s : State} (hp : P (regAddr s.cfg r)) (m x : Byte) :
    WritesOnly P s (rmwReg r m x s).state :=
  rmw_writesOnly (by rwa [regByte_masked, regByte_toNat]) m x s

theorem setModeBody_writesOnly {P : Nat → Prop} {s : State} (hp : P (regAddr s.cfg .cr0)) (m : Mode) :
    WritesOnly P s (setModeBody m s).state :=
  Run.andThen_rel (R := WritesOnly _) WritesOnly.trans (rmwReg_writesOnly hp _ _) fun _ _ _ => .of_wire_eq rfl

/-! ### The registers of a host command -/

/-- `storedTo` gives this register for the instruction, and it is none of the chip's own. -/
def OwnRegister (i : Instr) (s : State) (a : Nat) : Prop := a ∈ storedTo i s ∧ ∀ r ∈ chipOwned, a ≠ regAddr s.cfg r

theorem ownRegister_regAddr {i : Instr} {s : State} {r : Reg} (hc : s.cfg.wellFormed = true)
    (hi : regAddr s.cfg r ∈ storedTo i s) (hr : r ∉ chipOwned) : OwnRegister i s (regAddr s.cfg r) :=
  ⟨hi, fun _ hr' he => hr ((regAddr_inj hc).1 he ▸ hr')⟩

theorem ownRegister_of_plainWrites {i : Instr} {s : State} {r : Reg} (hc : s.cfg.wellFormed = true)
    (h : r ∈ plainWrites i) : OwnRegister i s (regAddr s.cfg r) := by
  suffices hr : regAddr s.cfg r ∈ storedTo i s ∧ r ∉ chipOwned from ownRegister_regAddr hc hr.1 hr.2
  cases i with
  | begin =>
    obtain rfl | rfl : r = .mask ∨ r = .cjto := by simpa [plainWrites] using h
    all_goals simp [storedTo, chipOwned]
  | settcthr flow fhigh =>
    obtain rfl | rfl | rfl | rfl : r = .lthfth ∨ r = .lthftl ∨ r = .ltlfth ∨ r = .ltlftl := by
      simpa [plainWrites] using h
    all_goals simp [storedTo, chipOwned]
  | setcjthr low high =>
    obtain rfl | rfl : r = .cjlf ∨ r = .cjhf := by simpa [plainWrites] using h
    all_goals simp [storedTo, chipOwned]
  | _ => simp [plainWrites] at h

theorem ownRegister_of_modifies {i : Instr} {s : State} {r : Reg} {m x : Byte} (hc : s.cfg.wellFormed = true)
    (h : (r, m, x) ∈ modifies i s) : OwnRegister i s (regAddr s.cfg r) := by
  suffices hr : regAddr s.cfg r ∈ storedTo i s ∧ r ∉ chipOwned from ownRegister_regAddr hc hr.1 hr.2
  cases i with
  | begin =>
    obtain ⟨rfl, -⟩ | ⟨rfl, -⟩ := by simpa [modifies] using h
    all_goals simp [storedTo, chipOwned]
  | settctype t =>
    obtain ⟨rfl, -⟩ := by simpa [modifies] using h
    simp [storedTo, chipOwned]
  | setnf f =>
    obtain ⟨rfl, -⟩ := by simpa [modifies] using h
    simp [storedTo, chipOwned]
  | trigger =>
    obtain ⟨hm, rfl, -⟩ := by simpa [modifies] using h
    simp [storedTo, chipOwned, hm]
  | readtc =>
    obtain ⟨hm, rfl, -⟩ := by simpa [modifies] using h
    simp [storedTo, chipOwned, hm]
  | _ => simp [modifies] at h

/-- The registers an instruction writes stay the same while its operations run. -/
theorem Ops.storedTo {i : Instr} {s t : State} {f : Bool} (h : Ops i s f t) : storedTo i t = storedTo i s := by
  have hcfg : t.cfg = s.cfg := h.prims.frame.cfg
  cases i with
  | trigger => simp only [Machine.storedTo, hcfg, h.mode (by simp) (by simp)]
  | readtc => simp only [Machine.storedTo, hcfg, h.mode (by simp) (by simp)]
  | _ => simp only [Machine.storedTo, hcfg]

theorem Ops.ownRegister {i : Instr} {s t : State} {f : Bool} (h : Ops i s f t) (a : Nat) :
    OwnRegister i t a ↔ OwnRegister i s a := by
  simp only [OwnRegister, h.storedTo, h.prims.frame.cfg]

/-- An operation of a host command writes its own registers only. -/
theorem Op.writesOnly {i : Instr} {s t : State} {f : Bool} (h : Op i s f t) (hi : isCommand i = true)
    (hc : s.cfg.wellFormed = true) : WritesOnly (OwnRegister i s) s t := by
  cases h with
  | opened => exact .of_event (State.opened_wire s) fun a ha => (Event.not_writes rfl a ha).elim
  | timed => exact .of_event (State.timed_wire s) fun a ha => (Event.not_writes rfl a ha).elim
  | slept ms => exact .of_event (sleep_wire ms s) fun a ha => (Event.not_writes rfl a ha).elim
  | read a n => exact readReg_writesOnly _ a n s
  | wrote v _ own => exact memWrite_writesOnly (ownRegister_of_plainWrites hc own) v
  | modified _ own => exact rmwReg_writesOnly (ownRegister_of_modifies hc own) _ _
  | moded m _ only =>
    refine setModeBody_writesOnly (ownRegister_regAddr hc ?_ (by decide)) m
    rcases only with rfl | ⟨code, rfl⟩ <;> simp [storedTo]
  | wroteAt a d _ only => subst only; cases hi
  | modifiedAt a m x _ only => subst only; cases hi
  | _ => exact .of_wire_eq rfl

theorem Ops.writesOnly {i : Instr} {s t : State} {f : Bool} (h : Ops i s f t) (hi : isCommand i = true)
    (hc : s.cfg.wellFormed = true) : WritesOnly (OwnRegister i s) s t := by
  induction h with
  | empty s => exact .of_wire_eq rfl
  | one h => exact h.writesOnly hi hc
  | seq h₁ _ ih₁ ih₂ =>
    have hu := ih₂ (h₁.prims.frame.cfg ▸ hc)
    rw [funext fun a => propext (h₁.ownRegister a)] at hu
    exact (ih₁ hc).trans hu

/-- Settles O54: every write frame of a command comes from one of its operations, which write its own registers. -/
theorem commandsWriteOnlyTheirRegisters : Obligations.CommandsWriteOnlyTheirRegisters := by
  intro i s t hi hc h
  obtain ⟨f, hops⟩ := exec_ops h
  obtain ⟨new, hwire, hnew⟩ := hops.writesOnly hi hc
  exact ⟨new, hwire, fun e he ab d a hframe hreg => hnew e he a ⟨ab, d, hframe, hreg⟩⟩

end Sys2Proof.Machine
end

section
/-! PROOFS. The bits of a CR0 value, and named registers after a write (10_state.md R121, 41_decoders.md R501, R570). -/

namespace Sys2Proof.Machine

theorem bitMask_getLsbD (i k : Fin 8) : (bitMask i).getLsbD k = decide (k = i) := by
  revert i k; decide

theorem and_bitMask (v : Byte) (i : Fin 8) : v &&& bitMask i = if v.getLsbD i then bitMask i else 0#8 := by
  ext k hk
  have hbit := bitMask_getLsbD i ⟨k, hk⟩
  rw [BitVec.getLsbD_eq_getElem hk] at hbit
  by_cases hki : (⟨k, hk⟩ : Fin 8) = i
  · subst hki
    cases hv : v.getLsbD k <;> simp_all
  · cases v.getLsbD i <;> simp [hbit, hki]

theorem and_bitMask_ne_zero (v : Byte) (i : Fin 8) : (v &&& bitMask i != 0) = v.getLsbD i := by
  have hne : bitMask i ≠ 0#8 := by revert i; decide
  rw [and_bitMask]
  cases v.getLsbD i <;> simp [hne]

theorem cmodeSet_eq_getLsbD (c : Config) (v : Byte) : cmodeSet c v = v.getLsbD c.bitCmode :=
  and_bitMask_ne_zero v c.bitCmode

theorem merge_getLsbD (v m x : Byte) (k : Fin 8) :
    (merge v m x).getLsbD k = if m.getLsbD k then x.getLsbD k else v.getLsbD k := by
  simp only [merge, BitVec.getLsbD_or, BitVec.getLsbD_and, BitVec.getLsbD_not, k.isLt, decide_true, Bool.true_and]
  cases m.getLsbD k <;> simp

/-- A read-modify-write changes CMODE only where its mask owns it (40_register_access.md R430). -/
theorem cmodeSet_merge (c : Config) (v m x : Byte) :
    cmodeSet c (merge v m x) = if cmodeSet c m then cmodeSet c x else cmodeSet c v := by
  simp only [cmodeSet_eq_getLsbD, merge_getLsbD]

section
variable {c : Config} (hc : c.wellFormed = true)
include hc

theorem cmodeSet_oneShotMask : cmodeSet c (oneShotMask c) = false := by
  rw [cmodeSet_eq_getLsbD, oneShotMask, bitMask_getLsbD]
  exact decide_eq_false (Config.wellFormed_bits hc).1

theorem cmodeSet_ocfault0Mask : cmodeSet c (ocfault0Mask c) = false := by
  rw [cmodeSet_eq_getLsbD, ocfault0Mask, bitMask_getLsbD]
  exact decide_eq_false (Config.wellFormed_bits hc).2.1

theorem cmodeSet_nfMask : cmodeSet c nfMask = false := by
  have hbit : nfMask = bitMask 0 := rfl
  rw [cmodeSet_eq_getLsbD, hbit, bitMask_getLsbD]
  exact decide_eq_false (Config.wellFormed_bits hc).2.2.2.1

/-- The chip's clearing of 1SHOT leaves CMODE (10_state.md R141). -/
theorem cmodeSet_clearOneShot (v : Byte) : cmodeSet c (v &&& ~~~oneShotMask c) = cmodeSet c v := by
  have hbit : (oneShotMask c).getLsbD c.bitCmode = false := by
    rw [← cmodeSet_eq_getLsbD]; exact cmodeSet_oneShotMask hc
  simp [cmodeSet_eq_getLsbD, -BitVec.getLsbD_eq_getElem, hbit]

/-- The bits of a mode set CMODE exactly in Continuous (R570). -/
theorem cmodeSet_modeBits (m : Mode) : cmodeSet c (modeBits c m) = decide (m = .continuous) := by
  cases m with
  | continuous => simp [modeBits, cmodeMask, cmodeSet_eq_getLsbD, bitMask_getLsbD]
  | oneShot => simp [modeBits, cmodeSet_oneShotMask hc]
  | oneShotNoWait => simp [modeBits, cmodeSet_oneShotMask hc]

/-- A write of one named register leaves the others. -/
theorem Mem.read_write_reg (m : List Host.Cell) (r r' : Reg) (v : Byte) :
    Mem.read c (Mem.write c m (regAddr c r') v) (regAddr c r) = if r = r' then v else Mem.read c m (regAddr c r) := by
  split
  · subst r'; exact Mem.read_write_same ..
  · rename_i hr
    exact Mem.read_write_other c m (fun he => hr ((regAddr_inj hc).1 he)) v

theorem clearOneShot_read_reg (m : List Host.Cell) (r : Reg) :
    Mem.read c (clearOneShot c m) (regAddr c r) =
      if r = .cr0 then Mem.read c m (regAddr c .cr0) &&& ~~~oneShotMask c else Mem.read c m (regAddr c r) :=
  Mem.read_write_reg hc m r .cr0 _

/-- The reference chip's results leave CR0 but for 1SHOT (10_state.md R151). -/
theorem referenceResult_read_cr0 (m : List Host.Cell) :
    Mem.read c (referenceResult c m) (regAddr c .cr0) = Mem.read c m (regAddr c .cr0) &&& ~~~oneShotMask c := by
  simp [referenceResult, clearOneShot_read_reg hc, Mem.read_write_reg hc]

end

theorem cmodeSet_modeMask (c : Config) : cmodeSet c (modeMask c) = true := by
  simp [cmodeSet_eq_getLsbD, modeMask, cmodeMask, bitMask_getLsbD]

/-! ### The reference chip -/

/-- Three bytes of a value, most significant first, are the value (20_memory.md R210). -/
theorem u24_extract (x : BitVec 24) : u24 [x.extractLsb' 16 8, x.extractLsb' 8 8, x.extractLsb' 0 8] = x := by
  apply BitVec.eq_of_toNat_eq
  simp only [u24, bigEndian, List.foldl_cons, List.foldl_nil, BitVec.extractLsb'_toNat, BitVec.toNat_ofNat,
    Nat.shiftRight_eq_div_pow]
  omega

theorem extract_append (x : BitVec 16) : x.extractLsb' 8 8 ++ x.extractLsb' 0 8 = x := by
  rw [BitVec.extractLsb'_append_extractLsb'_eq_extractLsb' (by omega)]
  simp

/-- The reference chip stores its results once its conversion time has passed (10_state.md R151). -/
theorem State.moved_regs_of_reference {s : State} (hd : s.draw.chip = .reference) (hs : s.conv = .oneShot)
    (hage : s.cfg.refMs ≤ s.age) : s.moved.regs = referenceResult s.cfg s.regs := by
  simp [State.moved_regs, chipRegs, hd, hs, hage]

/-- Settles O59, from what each named register reads as after `referenceResult`. -/
theorem referenceChipCompletes : Obligations.ReferenceChipCompletes := by
  intro s hc hd hs hage
  have hregs := State.moved_regs_of_reference hd hs hage
  have hread : ∀ r, s.moved.reg r = Mem.read s.cfg (referenceResult s.cfg s.regs) (regAddr s.cfg r) := fun r => by
    rw [State.reg, hregs, State.moved_cfg]
  refine ⟨?_, ?_, ?_, ?_⟩
  · simp [State.ltcb, hread, referenceResult, clearOneShot_read_reg hc, Mem.read_write_reg hc, u24_extract]
  · simp [hread, referenceResult, clearOneShot_read_reg hc, Mem.read_write_reg hc, extract_append]
  · rw [hread, referenceResult_read_cr0 hc, State.reg]
  · have hconv : s.moved.conv = restConv s.cfg (s.reg .cr0) := by
      simp [State.moved_conv, chipConv, hd, hs, endsConversion, hage, State.reg]
    exact hconv

/-- Settles O39: GETMODE's body is its result. -/
theorem getmodeReturnsMirror : Obligations.GetmodeReturnsMirror := by
  rintro s ⟨hfault, hseq, hbegun⟩
  rw [exec_eq_command, command_of_ready ⟨hfault, hseq⟩ (guardFault_begun hbegun (by simp))]
  exact ⟨_, rfl, ⟨rfl, hfault, rfl, rfl, rfl, rfl⟩, ⟨rfl, rfl⟩, ⟨rfl, rfl, rfl, rfl, rfl, rfl⟩⟩

end Sys2Proof.Machine
end

section
/-! PROOFS. CR0.CMODE and the mode mirror (10_state.md R104): no move of a lawful chip changes CMODE, a command's
operations keep it in step with the mirror, and only a write of CR0 that failed leaves it open (log 7). -/

namespace Sys2Proof.Machine

/-! ### The answers of a part of a step -/

theorem AllDrawn.draw {s t : State} {p : Draw → Bool} (h : AllDrawn s t p) (hlt : s.drawn < t.drawn) :
    p s.draw = true := h 0 hlt

theorem AllDrawn.left {s u t : State} {p : Draw → Bool} (h : AllDrawn s t p) (hd : u.drawn ≤ t.drawn) :
    AllDrawn s u p := fun k hk => h k (by omega)

theorem AllDrawn.right {s u t : State} {p : Draw → Bool} (h : AllDrawn s t p) (hu : Frame s u) :
    AllDrawn u t p := by
  obtain ⟨j, hj⟩ := Nat.exists_eq_add_of_le hu.drawn
  intro k hk
  rw [State.drawAt_of_eq hu.script hj]
  exact h (j + k) (by omega)

theorem noReset_of_lawful {d : Draw} (h : lawful d = true) : noReset d = true := by
  simp only [lawful, Bool.and_eq_true] at h
  exact h.1

/-- A lawful reply to a one-byte read of a named register is the register as the chip holds it (20_memory.md R212). -/
theorem State.reply_lawful {s : State} {r : Reg} {received : List Byte} (h : lawful s.draw = true)
    (hr : s.reply (readFrame s.cfg (regByte s.cfg r) 1) = some received) : ∃ b, received = [b, s.moved.reg r] := by
  have h7 : (regByte s.cfg r).getLsbD 7 = false :=
    Laws.PortOf.readFits_bit7 _ 1 (by simpa [regByte_masked] using regByte_fits s.cfg r)
  unfold State.reply at hr
  split at hr
  · rename_i under _ _
    cases hr
    exact ⟨under, by
      simp [readFrame, regByte_masked, regByte_toNat, wiredReply, -BitVec.getLsbD_eq_getElem, h7, State.reg]⟩
  · rename_i hl
    simp [lawful, hl] at h
  · cases hr

/-! ### CMODE under the chip's moves and frames -/

/-- CR0.CMODE as the chip holds it. -/
def State.cmode (s : State) : Bool := cmodeSet s.cfg (s.reg .cr0)

theorem State.cmode_congr {s t : State} (hcfg : t.cfg = s.cfg)
    (h : Mem.read s.cfg t.regs (regAddr s.cfg .cr0) = Mem.read s.cfg s.regs (regAddr s.cfg .cr0)) :
    t.cmode = s.cmode := by
  simp only [State.cmode, State.reg, hcfg, h]

/-- A chip that is not reset changes no bit of CR0 on its own but 1SHOT (10_state.md R141). -/
theorem State.moved_cmode {s : State} (hc : s.cfg.wellFormed = true) (h : noReset s.draw = true) :
    s.moved.cmode = s.cmode := by
  have happly := fun u => applyUpdates_read (chipOwns_cr0 hc) u s.regs
  unfold State.cmode State.reg
  rw [State.moved_cfg, State.moved_regs]
  cases hd : s.draw.chip with
  | act updates clears ends =>
    cases clears with
    | false => simp [chipRegs, happly]
    | true => simp [chipRegs, clearOneShot_read_reg hc, happly, cmodeSet_clearOneShot hc]
  | reset => simp [noReset, hd] at h
  | reference =>
    simp only [chipRegs]
    split
    · rw [referenceResult_read_cr0 hc, cmodeSet_clearOneShot hc]
    · rfl

/-! ### CMODE under the framer's operations -/

theorem State.lostFrame_read_regs {s : State} {a : Byte} (h : writtenReg a = none) (data : List Byte) :
    (s.lostFrame (a :: data)).regs = s.moved.regs := by
  rw [State.lostFrame_regs]
  unfold State.tornBy
  split
  · rename_i heq; injection heq with h1 _; subst h1; simp [h]
  · rfl

theorem State.lostFrame_write_regs {s : State} {a d : Byte} (h : (a &&& 0x7F#8).toNat < 16) :
    (s.lostFrame (writeFrame a d)).regs = Mem.write s.cfg s.moved.regs (a &&& 0x7F#8).toNat s.draw.kept := by
  rw [State.lostFrame_regs]
  simp [State.tornBy, writeFrame, writtenReg_write h]

/-- A read leaves the chip, or leaves it as its own move did. -/
theorem readReg_regs (a : Byte) (n : Nat) (s : State) :
    (readReg a n s).state.regs = s.regs ∨
      (s.drawn < (readReg a n s).state.drawn ∧ (readReg a n s).state.regs = s.moved.regs) := by
  rcases readReg_cases a n s with ⟨-, h⟩ | ⟨-, ⟨r, -, h⟩ | ⟨-, h⟩⟩ <;> rw [h]
  · exact .inl rfl
  · exact .inr ⟨by simp, State.exchanged_read_regs (writtenReg_read a) ..⟩
  · exact .inr ⟨by simp, State.lostFrame_read_regs (writtenReg_read a) _⟩

/-- A write leaves the chip, or leaves it as its own move did but for the register it addresses. -/
theorem writeReg_regs (a d : Byte) (s : State) :
    (writeReg a d s).state.regs = s.regs ∨
      (s.drawn < (writeReg a d s).state.drawn ∧
        ∃ v, (writeReg a d s).state.regs = Mem.write s.cfg s.moved.regs (a &&& 0x7F#8).toNat v) := by
  rcases writeReg_cases a d s with ⟨-, h⟩ | ⟨ha, ⟨r, -, h⟩ | ⟨-, h⟩⟩ <;> rw [h]
  · exact .inl rfl
  · exact .inr ⟨by simp, _, State.exchanged_write_regs ha r⟩
  · exact .inr ⟨by simp, _, State.lostFrame_write_regs ha⟩

/-- The frames of a named register other than CR0 address another register. -/
theorem regByte_ne_cr0 {c : Config} (hc : c.wellFormed = true) {r : Reg} (hr : r ≠ .cr0) :
    (regByte c r &&& 0x7F#8).toNat ≠ regAddr c .cr0 := by
  rw [regByte_masked, regByte_toNat]
  exact fun he => hr ((regAddr_inj hc).1 he)

/-- A part of a step leaves CMODE where its answers are lawful. -/
structure KeepsCmode (s t : State) : Prop where
  frame : Frame s t
  cmode : s.cfg.wellFormed = true → AllDrawn s t lawful → t.cmode = s.cmode

theorem KeepsCmode.trans {s u t : State} (h₁ : KeepsCmode s u) (h₂ : KeepsCmode u t) : KeepsCmode s t where
  frame := h₁.frame.trans h₂.frame
  cmode hc hd :=
    (h₂.cmode (h₁.frame.cfg ▸ hc) (hd.right h₁.frame)).trans (h₁.cmode hc (hd.left h₂.frame.drawn))

theorem readReg_keepsCmode (a : Byte) (n : Nat) (s : State) : KeepsCmode s (readReg a n s).state where
  frame := (readReg_prims a n s).frame
  cmode hc hd := by
    have hcfg := (readReg_prims a n s).frame.cfg
    rcases readReg_regs a n s with h | ⟨hlt, h⟩
    · exact State.cmode_congr hcfg (by rw [h])
    · rw [← State.moved_cmode hc (noReset_of_lawful (hd.draw hlt))]
      exact State.cmode_congr hcfg (by rw [h])

theorem writeReg_keepsCmode {a : Byte} {s : State} (ha : (a &&& 0x7F#8).toNat ≠ regAddr s.cfg .cr0) (d : Byte) :
    KeepsCmode s (writeReg a d s).state where
  frame := (writeReg_prims a d s).frame
  cmode hc hd := by
    have hcfg := (writeReg_prims a d s).frame.cfg
    rcases writeReg_regs a d s with h | ⟨hlt, v, h⟩
    · exact State.cmode_congr hcfg (by rw [h])
    · rw [← State.moved_cmode hc (noReset_of_lawful (hd.draw hlt))]
      exact State.cmode_congr hcfg (by rw [h]; exact Mem.read_write_other _ _ ha.symm v)

theorem rmw_keepsCmode {a : Byte} {s : State} (ha : (a &&& 0x7F#8).toNat ≠ regAddr s.cfg .cr0) (m x : Byte) :
    KeepsCmode s (rmw a m x s).state := by
  refine Run.andThen_rel (R := KeepsCmode) KeepsCmode.trans (readReg_keepsCmode a 1 s) fun data u hu =>
    writeReg_keepsCmode ?_ _
  have hcfg := (readReg_prims a 1 s).frame.cfg
  rw [hu] at hcfg
  exact hcfg ▸ ha

/-! ### Read-modify-writes of CR0 -/

/-- A one-byte read of a named register takes an answer; where that is lawful, the read brings the register or is lost. -/
theorem memRead_one_cases (r : Reg) (s : State) :
    s.drawn < (memRead r 1 s).state.drawn ∧
      (lawful s.draw = true →
        (∃ u, memRead r 1 s = .done [s.moved.reg r] u) ∨ ∃ u, memRead r 1 s = .raised u) := by
  unfold memRead
  rcases readReg_cases (regByte s.cfg r) 1 s with ⟨hl, -⟩ | ⟨-, ⟨received, hr, h⟩ | ⟨-, h⟩⟩
  · rw [regByte_fits] at hl; cases hl
  · rw [h]
    refine ⟨by simp, fun hd => .inl ?_⟩
    obtain ⟨b, rfl⟩ := State.reply_lawful hd hr
    exact ⟨_, rfl⟩
  · rw [h]
    exact ⟨by simp, fun _ => .inr ⟨_, rfl⟩⟩

/-- A write of CR0 puts CMODE, or is lost. -/
theorem memWrite_cr0_cases {s : State} (hc : s.cfg.wellFormed = true) (v : Byte) :
    (∃ t, memWrite .cr0 v s = .done () t ∧ t.cmode = cmodeSet s.cfg v) ∨
      ∃ t, memWrite .cr0 v s = .raised t ∧ LostCr0Write t := by
  unfold memWrite
  rcases writeReg_cases (regByte s.cfg .cr0) v s with ⟨hlt, -⟩ | ⟨-, ⟨received, -, h⟩ | ⟨-, h⟩⟩
  · rw [regByte_masked] at hlt
    exact absurd (regByte_lt s.cfg .cr0) (by omega)
  · refine .inl ⟨_, h, ?_⟩
    rw [State.cmode, State.reg, State.exchanged_cfg, State.exchanged_write_reg hc (by decide), Mem.read_write_same]
  · refine .inr ⟨_, h, v, s.seq.exchanges + 1, ?_⟩
    simp [writeFrame]

/-- After its read, a read-modify-write is the write of the merged byte. -/
theorem rmwReg_of_read {r : Reg} {m x : Byte} {s u : State} {data : List Byte} (h : memRead r 1 s = .done data u) :
    rmwReg r m x s = memWrite r (merge (u8 data) m x) u := by
  have hcfg : (memRead r 1 s).state.cfg = s.cfg := (readReg_prims _ 1 s).frame.cfg
  rw [h, Run.state_done] at hcfg
  have hrmw : rmwReg r m x s =
      (memRead r 1 s).andThen fun data u => writeReg (regByte s.cfg r) (merge (u8 data) m x) u := rfl
  rw [hrmw, h, Run.andThen_done, memWrite, hcfg]

theorem rmwReg_of_lost_read {r : Reg} {m x : Byte} {s u : State} (h : memRead r 1 s = .raised u) :
    rmwReg r m x s = .raised u :=
  congrArg (Run.andThen · _) h

/-- What follows a piece of a command takes back no answer. -/
theorem Run.drawn_le_andThen {α β : Type} {r : Run α} {g : α → State → Run β}
    (hg : ∀ a u, r = .done a u → u.drawn ≤ (g a u).state.drawn) : r.state.drawn ≤ (r.andThen g).state.drawn :=
  Run.andThen_rel (R := fun s t => s.drawn ≤ t.drawn) le_trans le_rfl hg

theorem rmwReg_draws (r : Reg) (m x : Byte) (s : State) : s.drawn < (rmwReg r m x s).state.drawn :=
  (memRead_one_cases r s).1.trans_le
    (Run.drawn_le_andThen (r := memRead r 1 s) fun _ u _ => (writeReg_prims _ _ u).frame.drawn)

/-- A read-modify-write of CR0 with lawful answers: CMODE is the value's where the mask owns it and as before elsewhere, or
the read is lost and CMODE is as before, or the write is lost. -/
theorem rmwReg_cr0_cases {m x : Byte} {s : State} (hc : s.cfg.wellFormed = true)
    (hd : AllDrawn s (rmwReg .cr0 m x s).state lawful) :
    (∃ t, rmwReg .cr0 m x s = .done () t ∧ t.cmode = if cmodeSet s.cfg m then cmodeSet s.cfg x else s.cmode) ∨
    (∃ t, rmwReg .cr0 m x s = .raised t ∧ t.cmode = s.cmode) ∨
    (∃ t, rmwReg .cr0 m x s = .raised t ∧ LostCr0Write t) := by
  have hread : KeepsCmode s (memRead .cr0 1 s).state := readReg_keepsCmode _ 1 s
  have hdraw := hd.draw (rmwReg_draws .cr0 m x s)
  rcases (memRead_one_cases .cr0 s).2 hdraw with ⟨u, h⟩ | ⟨u, h⟩
  · have hcfg : u.cfg = s.cfg := by
      rw [h] at hread
      exact hread.frame.cfg
    rw [rmwReg_of_read h, u8_singleton]
    rcases memWrite_cr0_cases (hcfg ▸ hc) (merge (s.moved.reg .cr0) m x) with ⟨t, hw, hcm⟩ | hlost
    · refine .inl ⟨t, hw, ?_⟩
      rw [hcm, hcfg, cmodeSet_merge, ← State.moved_cmode hc (noReset_of_lawful hdraw)]
      rfl
    · exact .inr (.inr hlost)
  · have hrmw := rmwReg_of_lost_read (m := m) (x := x) h
    rw [hrmw] at hd
    rw [h] at hread
    exact .inr (.inl ⟨u, hrmw, hread.cmode hc hd⟩)

/-! ### The mirror -/

/-- CR0.CMODE says whether the mirror is Continuous (R104). -/
def Agrees (s : State) : Prop := ∀ m, s.mode = some m → (s.cmode = true ↔ m = .continuous)

theorem mirror_iff (s : State) : Mirror s ↔ (¬ LostCr0Write s → Agrees s) := Iff.rfl

theorem not_lostCr0Write_of_noFault {s : State} (h : s.fault = none) : ¬ LostCr0Write s := by
  rintro ⟨v, k, hlost⟩
  rw [h] at hlost
  cases hlost

theorem Agrees.of_same {s t : State} (h : Agrees s) (hm : t.mode = s.mode) (hcm : t.cmode = s.cmode) : Agrees t := by
  unfold Agrees
  rw [hm, hcm]
  exact h

theorem agrees_of_clear {s : State} (hm : s.mode ≠ some .continuous) (hcm : s.cmode = false) : Agrees s := by
  intro m h
  have hne : m ≠ .continuous := fun he => hm (he ▸ h)
  simp [hcm, hne]

/-- A part of a step keeps CMODE in step with the mirror where its answers are lawful, or ends in the loss of a write of
CR0. -/
def KeepsAgreement (s : State) (faulted : Bool) (t : State) : Prop :=
  AllDrawn s t lawful → Agrees s → Agrees t ∨ faulted = true ∧ LostCr0Write t

theorem KeepsAgreement.of_same {s t : State} {f : Bool} (hm : t.mode = s.mode)
    (hcm : AllDrawn s t lawful → t.cmode = s.cmode) : KeepsAgreement s f t :=
  fun hd h => .inl (h.of_same hm (hcm hd))

/-- A host command's read-modify-write of CR0, but for those that set a mode, leaves CMODE, or clears it outside Continuous
(42_init_and_config.md R600, R630; 43_conversion_mode.md R720). -/
theorem cmode_of_modifies_cr0 {i : Instr} {s : State} {m x : Byte} (hc : s.cfg.wellFormed = true)
    (h : (.cr0, m, x) ∈ modifies i s) :
    cmodeSet s.cfg m = false ∨ cmodeSet s.cfg m = true ∧ cmodeSet s.cfg x = false ∧ s.mode ≠ some .continuous := by
  cases i with
  | begin =>
    obtain ⟨rfl, -⟩ := by simpa [modifies] using h
    exact .inl (cmodeSet_ocfault0Mask hc)
  | setnf f =>
    obtain ⟨rfl, -⟩ := by simpa [modifies] using h
    exact .inl (cmodeSet_nfMask hc)
  | trigger =>
    obtain ⟨hm, rfl, rfl⟩ := by simpa [modifies] using h
    exact .inr ⟨cmodeSet_modeMask s.cfg, cmodeSet_oneShotMask hc, hm⟩
  | readtc =>
    obtain ⟨hm, rfl, rfl⟩ := by simpa [modifies] using h
    exact .inr ⟨cmodeSet_modeMask s.cfg, cmodeSet_oneShotMask hc, by simp [hm]⟩
  | _ => simp [modifies] at h

theorem rmwReg_keepsAgreement {r : Reg} {m x : Byte} {i : Instr} {s : State} (hc : s.cfg.wellFormed = true)
    (own : (r, m, x) ∈ modifies i s) :
    KeepsAgreement s (rmwReg r m x s).faulted (rmwReg r m x s).state := by
  have hmode : (rmwReg r m x s).state.mode = s.mode := (rmw_sameControl _ _ _ s).1
  by_cases hr : r = .cr0
  · subst hr
    intro hd hs
    rcases rmwReg_cr0_cases hc hd with ⟨t, h, hcm⟩ | ⟨t, h, hcm⟩ | ⟨t, h, hlost⟩ <;> rw [h] at hmode ⊢
    · refine .inl ?_
      rcases cmode_of_modifies_cr0 hc own with hkeep | ⟨howned, hclear, hne⟩
      · exact hs.of_same hmode (by simpa [hkeep] using hcm)
      · exact agrees_of_clear (hmode ▸ hne) (by simpa [howned, hclear] using hcm)
    · exact .inl (hs.of_same hmode hcm)
    · exact .inr ⟨rfl, hlost⟩
  · exact .of_same hmode ((rmw_keepsCmode (regByte_ne_cr0 hc hr) m x).cmode hc)

/-- A mode write puts CMODE and then the mirror (43_conversion_mode.md R700). -/
theorem setModeBody_keepsAgreement {s : State} (hc : s.cfg.wellFormed = true) (m : Mode) :
    KeepsAgreement s (setModeBody m s).faulted (setModeBody m s).state := by
  intro hd hs
  have hmode : (rmwReg .cr0 (modeMask s.cfg) (modeBits s.cfg m) s).state.mode = s.mode := (rmw_sameControl _ _ _ s).1
  have hd' : AllDrawn s (rmwReg .cr0 (modeMask s.cfg) (modeBits s.cfg m) s).state lawful :=
    hd.left (Run.drawn_le_andThen fun _ _ _ => le_rfl)
  unfold setModeBody
  rcases rmwReg_cr0_cases hc hd' with ⟨t, h, hcm⟩ | ⟨t, h, hcm⟩ | ⟨t, h, hlost⟩ <;> rw [h] at hmode ⊢
  · refine .inl fun mode hm => ?_
    obtain rfl : m = mode := Option.some.inj hm
    have hset : (t.setMode m).cmode = decide (m = .continuous) := by
      rw [cmodeSet_modeMask, if_pos rfl, cmodeSet_modeBits hc] at hcm
      exact hcm
    rw [Run.andThen_done, Run.state_done, hset, decide_eq_true_iff]
  · exact .inl (hs.of_same hmode hcm)
  · exact .inr ⟨rfl, hlost⟩

theorem ne_cr0_of_plainWrites {i : Instr} {r : Reg} (h : r ∈ plainWrites i) : r ≠ .cr0 := by
  rintro rfl
  cases i <;> simp [plainWrites] at h

theorem Op.keepsAgreement {i : Instr} {s t : State} {f : Bool} (h : Op i s f t) (hi : isCommand i = true)
    (hc : s.cfg.wellFormed = true) : KeepsAgreement s f t := by
  cases h with
  | opened =>
    exact .of_same rfl fun hd => State.moved_cmode hc (noReset_of_lawful (hd.draw (by simp)))
  | slept ms =>
    exact .of_same rfl fun hd => State.moved_cmode hc (noReset_of_lawful (hd.draw (by simp)))
  | read a n => exact .of_same (readReg_sameControl a n s).1 ((readReg_keepsCmode a n s).cmode hc)
  | wrote v _ own =>
    have ha := regByte_ne_cr0 hc (ne_cr0_of_plainWrites own)
    exact .of_same (writeReg_sameControl _ v s).1 ((writeReg_keepsCmode ha v).cmode hc)
  | modified _ own => exact rmwReg_keepsAgreement hc own
  | moded m => exact setModeBody_keepsAgreement hc m
  | wroteAt a d _ only => subst only; cases hi
  | modifiedAt a m x _ only => subst only; cases hi
  | _ => exact .of_same rfl fun _ => rfl

theorem Ops.keepsAgreement {i : Instr} {s t : State} {f : Bool} (h : Ops i s f t) (hi : isCommand i = true)
    (hc : s.cfg.wellFormed = true) : KeepsAgreement s f t := by
  induction h with
  | empty s => exact .of_same rfl fun _ => rfl
  | one h => exact h.keepsAgreement hi hc
  | seq h₁ h₂ ih₁ ih₂ =>
    intro hd hs
    have hf := h₁.prims.frame
    rcases ih₁ hc (hd.left h₂.prims.frame.drawn) hs with hu | ⟨hne, -⟩
    · exact ih₂ (hf.cfg ▸ hc) (hd.right hf) hu
    · cases hne

/-- A host command's operations, begun with no fault recorded, keep the mirror invariant. -/
theorem Ops.mirror {i : Instr} {s t : State} {f : Bool} (h : Ops i s f t) (hi : isCommand i = true)
    (hc : s.cfg.wellFormed = true) (hfault : s.fault = none) (hm : Mirror s) (hd : AllDrawn s t lawful) :
    Mirror t := by
  rcases h.keepsAgreement hi hc hd (hm (not_lostCr0Write_of_noFault hfault)) with ht | ⟨-, hlost⟩
  · exact fun _ => ht
  · exact fun hn => absurd hlost hn

/-- What a command word decodes to is a host command (30_encoding.md R310). -/
theorem decodeCommand_isCommand {op : BitVec 4} {x : BitVec 64} {i : Instr} (h : decodeCommand op x = .instr i) :
    isCommand i = true := by
  unfold decodeCommand at h
  split at h
  case h_2 => split at h <;> cases h; rfl
  all_goals cases h
  all_goals rfl

theorem Mirror.of_same {s t : State} (h : Mirror s) (hfault : t.fault = s.fault) (hcfg : t.cfg = s.cfg)
    (hmode : t.mode = s.mode) (hcm : t.cmode = s.cmode) : Mirror t := by
  have hlost : LostCr0Write t ↔ LostCr0Write s := by simp only [LostCr0Write, hfault, hcfg]
  rw [mirror_iff, hlost]
  exact fun hn => Agrees.of_same (h hn) hmode hcm

theorem mirror_of_unset {s : State} (h : s.mode = none) : Mirror s := by
  intro _ m hm
  rw [h] at hm
  cases hm

theorem resume_mirror {s t : State} (h : resume s = .next t) (hc : s.cfg.wellFormed = true) (hm : Mirror s)
    (hd : AllDrawn s t lawful) : Mirror t := by
  obtain ⟨hfault, f, hops⟩ := resume_ops h
  exact hops.mirror rfl hc hfault hm hd

/-- A request the decoder rejects does nothing but raise (60_exceptions.md R830). -/
theorem rejectRequest_next {r : Request} {s t : State} (h : rejectRequest r s = .next t) :
    t = raise (requestFault s.cfg r) s := by
  unfold rejectRequest at h
  split at h
  · cases h
  · split at h
    · cases h
    · injection h with h
      exact h.symm

/-- Taking a command word keeps the mirror invariant; a word that does not decode leaves the chip and the mirror. -/
theorem takeCommand_mirror {op : BitVec 4} {x : BitVec 64} {s t : State} (h : takeRequest (.command op x) s = .next t)
    (hfault : s.fault = none) (hc : s.cfg.wellFormed = true) (hm : Mirror s) (hd : AllDrawn s t lawful) :
    Mirror t := by
  unfold takeRequest at h
  split at h
  · rename_i i hi
    obtain ⟨f, hops⟩ := exec_ops h
    exact hops.mirror (decodeCommand_isCommand hi) hc hfault hm hd
  · obtain rfl := rejectRequest_next h
    exact fun _ => hm (not_lostCr0Write_of_noFault hfault)

/-- Settles O58: with no fault recorded a step is a chain of operations of one host command, which keep CMODE in step with
the mirror up to the loss of a write of CR0; with one recorded, or with nothing to do, only the chip moves. -/
theorem stepKeepsModeMirror : Obligations.StepKeepsModeMirror := by
  intro s t hc hm hf h hd
  unfold step nextStep at h
  unfold FdcOnly at hf
  split at h
  · cases h; exact mirror_of_unset rfl
  · rename_i hin; rw [hin] at hf; exact hf.elim
  · cases h; exact mirror_of_unset rfl
  · rename_i r rest hin
    rw [hin] at hf
    split at h
    · cases h; exact hm
    · rename_i hfault
      split at h
      · cases r with
        | command op x => exact takeCommand_mirror h (by simpa using hfault) hc hm hd
        | frame bytes => exact hf.elim
        | readModifyWrite a m x => exact hf.elim
      · exact resume_mirror h hc hm hd
  · split at h
    · cases h
      exact hm.of_same rfl rfl rfl (State.moved_cmode hc (noReset_of_lawful (hd.draw (by simp))))
    · exact resume_mirror h hc hm hd

end Sys2Proof.Machine
end

section
/-! PROOFS. What a transport that exchanges a read frame brings back from the chip's registers (20_memory.md R212,
30_encoding.md R301). -/

namespace Sys2Proof.Machine

/-- A wired transport answers every frame from the registers as the chip's own move left them. -/
theorem State.reply_of_wired {s : State} (h : wired s.draw = true) (out : List Byte) :
    ∃ first second, s.reply out = some (wiredReply s.cfg s.moved.regs first second out) := by
  unfold wired at h
  split at h
  · rename_i first second hlink
    exact ⟨first, second, by simp [State.reply, hlink]⟩
  · cases h

/-- The address of a read that fits in the registers is below 16, so the mask of the address bits keeps it. -/
theorem readFits_masked {a : Byte} {n : Nat} (h : readFits a n = true) : a &&& 0x7F#8 = a := by
  simp only [readFits, Bool.and_eq_true, decide_eq_true_eq] at h
  apply BitVec.eq_of_toNat_eq
  exact Nat.and_two_pow_sub_one_of_lt_two_pow (n := 7) (by omega)

/-- The bytes after the first of a read frame's reply are the registers from the frame's address upward. -/
theorem wiredReply_of_readFits {a : Byte} {n : Nat} (h : readFits a n = true) (c : Config) (m : List Host.Cell)
    (first second : Byte) (rest : List Byte) :
    wiredReply c m first second (a :: rest)
      = first :: (List.range rest.length).map (fun k => Mem.read c m (a.toNat + k)) := by
  rw [wiredReply, Laws.PortOf.readFits_bit7 a n h, readFits_masked h, if_neg Bool.false_ne_true]

/-- Settles O23: a wired transport answers from the moved registers, and a read frame's address has bit 7 clear. -/
theorem replyHoldsAscendingRegisters : Obligations.ReplyHoldsAscendingRegisters := by
  intro s a n hwired hfits
  obtain ⟨first, second, hreply⟩ := State.reply_of_wired hwired (a :: List.replicate n s.cfg.dummy)
  refine ⟨first, ?_⟩
  rw [hreply, wiredReply_of_readFits hfits, List.length_replicate]

end Sys2Proof.Machine
end

section
/-! PROOFS. Decoding and encoding: which frames decode, and to what; what the encoder writes decodes to the instruction it
was written for (30_encoding.md R300 to R312, R330). -/

namespace Sys2Proof.Machine

/-! ### Frames -/

/-- The instruction a legal read frame of `n` data bytes stands for (30_encoding.md R301). -/
def readInstr (a : Byte) : Nat → Instr
  | 1 => .rd8 a
  | 2 => .rd16 a
  | _ => .rd24 a

theorem decodeRead_of_fits {a : Byte} {n : Nat} (hpos : 1 ≤ n) (hmax : n ≤ 3) (hfits : a.toNat + n ≤ 16) :
    decodeRead a n = .instr (readInstr a n) := by
  unfold decodeRead
  rw [if_neg (by omega), if_neg (by omega), if_neg (by omega)]
  obtain rfl | rfl | rfl : n = 1 ∨ n = 2 ∨ n = 3 := by omega
  all_goals rfl

/-- The three tests of the decoder on a read frame are the three bounds of 30_encoding.md R330. -/
theorem decodeRead_instr_iff {a : Byte} {n : Nat} :
    (∃ i, decodeRead a n = .instr i) ↔ 1 ≤ n ∧ n ≤ 3 ∧ a.toNat + n ≤ 16 := by
  constructor
  · rintro ⟨i, h⟩
    unfold decodeRead at h
    split_ifs at h
    omega
  · rintro ⟨hpos, hmax, hfits⟩
    exact ⟨_, decodeRead_of_fits hpos hmax hfits⟩

theorem decodeWrite_of_lt {a : Byte} (d : Byte) (h : a.toNat < 16) : decodeWrite a [d] = .instr (.wr8 a d) :=
  if_neg (by omega)

/-- A write frame needs one data byte and a register address (30_encoding.md R330). -/
theorem decodeWrite_instr_iff {a : Byte} {data : List Byte} :
    (∃ i, decodeWrite a data = .instr i) ↔ data.length = 1 ∧ a.toNat < 16 := by
  constructor
  · rintro ⟨i, h⟩
    unfold decodeWrite at h
    split at h
    · split_ifs at h
      exact ⟨rfl, by omega⟩
    · cases h
  · rintro ⟨hone, hlt⟩
    obtain ⟨d, rfl⟩ := List.length_eq_one_iff.1 hone
    exact ⟨_, decodeWrite_of_lt d hlt⟩

theorem decodeFrame_read {a : Byte} (h : a.getLsbD 7 = false) (data : List Byte) :
    decodeFrame (a :: data) = decodeRead a data.length := by
  rw [decodeFrame, h, if_neg Bool.false_ne_true]

theorem decodeFrame_write {a : Byte} (h : a.getLsbD 7 = true) (data : List Byte) :
    decodeFrame (a :: data) = decodeWrite (a &&& 0x7F#8) data := by
  rw [decodeFrame, h, if_pos rfl]

/-- Settles O12: bit 7 of the first byte makes the frame a read or a write for the decoder and for `legalFrame` alike, and
each kind decodes exactly within the bounds of R330. -/
theorem frameDecodesExactlyWhenLegal : Obligations.FrameDecodesExactlyWhenLegal := by
  intro bytes
  cases bytes with
  | nil => simp [decode, decodeFrame, legalFrame]
  | cons ab data =>
    cases h7 : ab.getLsbD 7 with
    | false =>
      simp only [decode, decodeFrame_read h7, decodeRead_instr_iff, legalFrame, h7, if_neg Bool.false_ne_true,
        Bool.and_eq_true, decide_eq_true_eq, and_assoc]
    | true =>
      simp only [decode, decodeFrame_write h7, decodeWrite_instr_iff, legalFrame, h7, if_true, Bool.and_eq_true,
        decide_eq_true_eq]

/-! ### The round trip -/

/-- A read frame whose bytes fit decodes to the read of that many bytes. -/
theorem decodeFrame_of_readFits {a : Byte} {data : List Byte} (h : readFits a data.length = true)
    (hmax : data.length ≤ 3) : decodeFrame (a :: data) = .instr (readInstr a data.length) := by
  rw [decodeFrame_read (Laws.PortOf.readFits_bit7 a _ h)]
  simp only [readFits, Bool.and_eq_true, decide_eq_true_eq] at h
  exact decodeRead_of_fits h.1 hmax h.2

/-- Bit 7, which the encoder sets in a write's address, comes off again (30_encoding.md R302). -/
theorem decodeFrame_writeFrame {a : Byte} (d : Byte) (h : readFits a 1 = true) :
    decodeFrame (writeFrame a d) = .instr (.wr8 a d) := by
  have h7 : (a ||| 0x80#8).getLsbD 7 = true := by simp
  have hoff : (a ||| 0x80#8) &&& 0x7F#8 = a := by
    calc (a ||| 0x80#8) &&& 0x7F#8 = a &&& 0x7F#8 := by clear h h7; revert a; decide
      _ = a := readFits_masked h
  simp only [readFits, Bool.and_eq_true, decide_eq_true_eq] at h
  rw [writeFrame, decodeFrame_write h7, hoff, decodeWrite_of_lt d (by omega)]

theorem decodeReadModifyWrite_of_readFits {a : Byte} (m x : Byte) (h : readFits (a &&& 0x7F#8) 1 = true) :
    decodeReadModifyWrite a m x = .instr (.rmw a m x) := by
  simp only [readFits, Bool.and_eq_true, decide_eq_true_eq] at h
  exact if_neg (by omega)

/-- An operand narrower than the operand field is read back from its low bits (log 11). -/
theorem setWidth_setWidth_operand {w : Nat} (x : BitVec w) (h : w ≤ 64) : (x.setWidth 64).setWidth w = x := by
  rw [BitVec.setWidth_setWidth_of_le x h, BitVec.setWidth_eq]

theorem decode_encode_setmode {m : BitVec 2} (dummy : Byte) (h : m ≠ 3) :
    decode (encode dummy (.setmode m)) = .instr (.setmode m) := by
  simp only [decode, encode, decodeCommand, setWidth_setWidth_operand m (by decide)]
  exact if_neg h

theorem decode_encode_settcthr (dummy : Byte) (flow fhigh : F32) :
    decode (encode dummy (.settcthr flow fhigh)) = .instr (.settcthr flow fhigh) :=
  congrArg₂ (Decoded.instr <| .settcthr · ·) BitVec.extractLsb'_append_eq_right BitVec.extractLsb'_append_eq_left

theorem decode_encode_setcjthr (dummy : Byte) (low high : BitVec 8) :
    decode (encode dummy (.setcjthr low high)) = .instr (.setcjthr low high) := by
  have hlow : ((high ++ low).setWidth 64).extractLsb' 0 8 = low := by
    rw [BitVec.extractLsb'_setWidth_of_le (by decide), BitVec.extractLsb'_append_eq_right]
  have hhigh : ((high ++ low).setWidth 64).extractLsb' 8 8 = high := by
    rw [BitVec.extractLsb'_setWidth_of_le (by decide), BitVec.extractLsb'_append_eq_left]
  exact congrArg₂ (Decoded.instr <| .setcjthr · ·) hlow hhigh

/-- Settles O11: a frame comes back by the decoder's equation for its kind, a call as it is, and a command's operands from
the bits of the operand field they were put in. -/
theorem decodeOfEncode : Obligations.DecodeOfEncode := by
  intro dummy i hwf
  cases i with
  | rd8 a => exact decodeFrame_of_readFits (data := [dummy]) hwf (by simp)
  | rd16 a => exact decodeFrame_of_readFits (data := [dummy, dummy]) hwf (by simp)
  | rd24 a => exact decodeFrame_of_readFits (data := [dummy, dummy, dummy]) hwf (by simp)
  | wr8 a d => exact decodeFrame_writeFrame d hwf
  | rmw a m x => exact decodeReadModifyWrite_of_readFits m x hwf
  | setmode m => exact decode_encode_setmode dummy (by simpa [Instr.wellFormed] using hwf)
  | settctype t => exact congrArg (Decoded.instr <| .settctype ·) (setWidth_setWidth_operand t (by decide))
  | setnf f => exact congrArg (Decoded.instr <| .setnf ·) (setWidth_setWidth_operand f (by decide))
  | settcthr flow fhigh => exact decode_encode_settcthr dummy flow fhigh
  | setcjthr low high => exact decode_encode_setcjthr dummy low high
  | begin | getmode | gettctype | readfault | trigger | convdone | readcj | readtc => rfl

/-- Settles O10: each word is what the encoder writes for a well-formed instruction. -/
theorem tableWordsDecode : Obligations.TableWordsDecode :=
  ⟨decodeOfEncode 0xFF (.rd8 0x0F) rfl, decodeOfEncode 0xFF (.rd16 0x0A) rfl, decodeOfEncode 0xFF (.rd24 0x0C) rfl,
    decodeOfEncode 0xFF (.wr8 0x00 0x50) rfl, decodeOfEncode 0xFF (.setmode 2) rfl, decodeOfEncode 0xFF .readtc rfl,
    decodeOfEncode 0xFF (.settcthr 0xC1200000 0x42AA0000) rfl, decodeOfEncode 0xFF (.setcjthr 0xEC 0x46) rfl⟩

end Sys2Proof.Machine
end

section
/-! PROOFS. What every step sends: legal frames only, the primitives being the one place where the wire grows
(30_encoding.md R330, 20_memory.md R201, R214). -/

namespace Sys2Proof.Machine

/-- If the event is a frame, exchanged or lost, then a legal one. -/
def Event.Legal (e : Event) : Prop := ∀ out, e.frame = some out → legalFrame out = true

theorem Event.legal_of_frame {e : Event} {out : List Byte} (he : e.frame = some out) (h : legalFrame out = true) :
    e.Legal := by
  intro out' he'
  rw [he] at he'
  cases he'
  exact h

theorem Event.legal_of_no_frame {e : Event} (he : e.frame = none) : e.Legal := by
  intro out he'
  rw [he] at he'
  cases he'

/-- A primitive shows the observer nothing, or one event, whose frame is legal. -/
theorem Prim.wire {s t : State} (h : Prim s t) : t.wire = s.wire ∨ ∃ e : Event, t.wire = s.wire ++ [e] ∧ e.Legal := by
  cases h with
  | exchanged legal _ => exact .inr ⟨_, State.exchanged_wire .., Event.legal_of_frame rfl legal⟩
  | lost legal _ => exact .inr ⟨_, State.lostFrame_wire .., Event.legal_of_frame rfl legal⟩
  | opened => exact .inr ⟨_, State.opened_wire s, Event.legal_of_no_frame rfl⟩
  | timed => exact .inr ⟨_, State.timed_wire s, Event.legal_of_no_frame rfl⟩
  | slept ms => exact .inr ⟨_, sleep_wire ms s, Event.legal_of_no_frame rfl⟩
  | accepted | raised | delivered | sequenced | mirrored | began => exact .inl rfl

theorem Prims.wire {s t : State} (h : Prims s t) : ∃ new, t.wire = s.wire ++ new ∧ ∀ e ∈ new, e.Legal := by
  induction h with
  | refl => exact ⟨[], by simp⟩
  | tail _ hprim ih =>
    obtain ⟨new, hnew, hlegal⟩ := ih
    obtain hsame | ⟨e, hone, he⟩ := hprim.wire
    · exact ⟨new, hsame.trans hnew, hlegal⟩
    · refine ⟨new ++ [e], by rw [hone, hnew, List.append_assoc], ?_⟩
      exact List.forall_mem_append.2 ⟨hlegal, List.forall_mem_singleton.2 he⟩

theorem takeRequest_prims {r : Request} {s t : State} (h : takeRequest r s = .next t) : Prims s t := by
  unfold takeRequest at h
  split at h
  · exact exec_prims h
  · rw [rejectRequest_next h]
    exact .one (.raised _ s)

/-- A step is made of primitives, but for what it does beside them, which no observer sees: an offer leaves the queue, a
reset is done, or an idle FDC waits. -/
theorem step_prims {s t : State} (h : step s = .next t) : ∃ u, Prims u t ∧ u.wire = s.wire := by
  unfold step nextStep at h
  split at h
  · cases h; exact ⟨_, .refl, rfl⟩
  · cases h; exact ⟨_, .refl, rfl⟩
  · cases h; exact ⟨_, .refl, rfl⟩
  · split at h
    · cases h; exact ⟨_, .refl, rfl⟩
    · split at h
      · exact ⟨_, takeRequest_prims h, rfl⟩
      · exact ⟨s, resume_prims h, rfl⟩
  · split at h
    · cases h; exact ⟨_, .refl, rfl⟩
    · exact ⟨s, resume_prims h, rfl⟩

/-- Settles O55: the wire grows by primitives only, and each primitive's frame is legal. -/
theorem everyFrameSentIsLegal : Obligations.EveryFrameSentIsLegal := by
  intro s t h
  obtain ⟨u, hprims, hu⟩ := step_prims h
  rw [← hu]
  exact hprims.wire

end Sys2Proof.Machine
end

section
/-! PROOFS. What a step does with a request a ready FDC is offered: it runs what the request decodes to, or raises
IllegalCommand and touches nothing else (60_exceptions.md R830, R850, R860). -/

namespace Sys2Proof.Machine

theorem step_of_request {s : State} {r : Request} {rest : List HostInput} (hin : s.inputs = .request r :: rest)
    (hs : Ready s) : step s = takeRequest r { s with inputs := rest } := by
  obtain ⟨hfault, hseq⟩ := hs
  simp [step, nextStep, hin, hfault, hseq]

/-- Settles O5: a ready FDC takes the request, and taking it is `exec` of what it decodes to. -/
theorem stepRunsDecodedInstruction : Obligations.StepRunsDecodedInstruction := by
  intro s r rest i hin hs hdec
  rw [step_of_request hin hs, takeRequest, hdec]

/-! ### IllegalCommand -/

/-- Raising a fault leaves the mirror and `begun` (60_exceptions.md R871). -/
theorem raise_sameControl (f : FdcFault) (s : State) : SameControl s (raise f s) := ⟨rfl, rfl⟩

/-- Raising a fault performs no primitive of another agent (60_exceptions.md R871). -/
theorem raise_untouched (f : FdcFault) (s : State) : Untouched s (raise f s) := ⟨rfl, rfl, rfl, rfl, rfl, rfl⟩

theorem faultCode_requestFault (c : Config) (r : Request) : faultCode (requestFault c r) = 1 := by
  cases r <;> rfl

theorem takeRequest_of_reject {s : State} {r : Request} {why : Rejection} (hs : Ready s)
    (hdec : decode r = .reject why) : takeRequest r s = .next (raise (requestFault s.cfg r) s) := by
  obtain ⟨hfault, hseq⟩ := hs
  simp [takeRequest, hdec, rejectRequest, hfault, hseq]

/-- Settles O8: all a rejected request does is to raise `requestFault`. -/
theorem undecodableRequestIsIllegal : Obligations.UndecodableRequestIsIllegal := by
  intro s r rest why hin hs hdec
  refine ⟨_, requestFault s.cfg r, (step_of_request hin hs).trans (takeRequest_of_reject hs hdec), rfl, rfl, rfl,
    faultCode_requestFault s.cfg r, ?_, ?_, ?_, raise_sameControl _ _, raise_untouched _ _, rfl, rfl⟩
  · rintro op x rfl; rfl
  · rintro bytes rfl; rfl
  · rintro a m x rfl; rfl

/-- `Guard` refuses mode code 3 in every state, before it looks at `begun` (60_exceptions.md R850). -/
theorem guardFault_setmode_three (s : State) : guardFault (.setmode 3) s = some (.illegalCommand 0x1 3) := rfl

/-- Settles O16: `Guard` raises before SETMODE's body runs. -/
theorem modeCodeThreeIsIllegal : Obligations.ModeCodeThreeIsIllegal := by
  intro s hs
  refine ⟨_, ?_, rfl, rfl, rfl, raise_sameControl _ s, raise_untouched _ s, rfl, rfl⟩
  rw [exec_eq_command]
  exact command_of_guard hs (guardFault_setmode_three s)

end Sys2Proof.Machine
end

section
/-! PROOFS. The framer's two operations, one equation for each way they end (40_register_access.md R401, R410, R420), and
a framer instruction by what its body ends in. -/

namespace Sys2Proof.Machine

/-! ### The transport and the framer -/

/-- A transport that does not exchange a frame brings nothing back (R401). -/
theorem State.reply_of_not_answers {s : State} {out : List Byte} (h : answers s.draw out.length = false) :
    s.reply out = none := by
  unfold answers at h
  unfold State.reply
  split at h
  · cases h
  · simp_all
  · simp [*]

theorem readReg_of_illegal {a : Byte} {n : Nat} {s : State} (h : 16 < (a &&& 0x7F#8).toNat + n) :
    readReg a n s = .raised (raise (.illegalFrame (readFrame s.cfg a n)) s) := by
  rcases readReg_cases a n s with ⟨-, he⟩ | ⟨hl, -⟩
  · exact he
  · simp only [readFits, Bool.and_eq_true, decide_eq_true_eq] at hl
    omega

/-- The address has room for a read of one to three bytes (30_encoding.md R330). -/
def ReadLegal (a : Byte) (n : Nat) : Prop := 1 ≤ n ∧ n ≤ 3 ∧ (a &&& 0x7F#8).toNat + n ≤ 16

theorem ReadLegal.fits {a : Byte} {n : Nat} (h : ReadLegal a n) :
    (readFits (a &&& 0x7F#8) n && decide (n ≤ 3)) = true := by
  obtain ⟨hpos, hmax, hfits⟩ := h
  simp only [readFits, Bool.and_eq_true, decide_eq_true_eq]
  omega

theorem ReadLegal.lt {a : Byte} {n : Nat} (h : ReadLegal a n) : (a &&& 0x7F#8).toNat < 16 := by
  obtain ⟨hpos, -, hfits⟩ := h
  omega

theorem readLegal_one {a : Byte} (h : (a &&& 0x7F#8).toNat ≤ 0x0F) : ReadLegal a 1 :=
  ⟨by decide, by decide, by omega⟩

theorem readReg_of_reply {a : Byte} {n : Nat} {s : State} {received : List Byte} (hl : ReadLegal a n)
    (h : s.reply (readFrame s.cfg a n) = some received) :
    readReg a n s = .done (received.drop 1) (s.exchanged (readFrame s.cfg a n) received) := by
  rcases readReg_cases a n s with ⟨hl', -⟩ | ⟨-, ⟨received', hr, he⟩ | ⟨hr, -⟩⟩
  · rw [hl.fits] at hl'; cases hl'
  · rw [h] at hr; cases hr; exact he
  · rw [h] at hr; cases hr

theorem readReg_of_no_reply {a : Byte} {n : Nat} {s : State} (hl : ReadLegal a n)
    (h : s.reply (readFrame s.cfg a n) = none) :
    readReg a n s = .raised (raise (.transportFail (readFrame s.cfg a n) (s.seq.exchanges + 1))
      (s.lostFrame (readFrame s.cfg a n))) := by
  rcases readReg_cases a n s with ⟨hl', -⟩ | ⟨-, ⟨received, hr, -⟩ | ⟨-, he⟩⟩
  · rw [hl.fits] at hl'; cases hl'
  · rw [h] at hr; cases hr
  · exact he

theorem writeReg_of_illegal {a d : Byte} {s : State} (h : 16 ≤ (a &&& 0x7F#8).toNat) :
    writeReg a d s = .raised (raise (.illegalFrame (writeFrame a d)) s) := by
  rcases writeReg_cases a d s with ⟨-, he⟩ | ⟨hl, -⟩
  · exact he
  · omega

theorem writeReg_of_reply {a d : Byte} {s : State} {received : List Byte} (hl : (a &&& 0x7F#8).toNat < 16)
    (h : s.reply (writeFrame a d) = some received) :
    writeReg a d s = .done () (s.exchanged (writeFrame a d) received) := by
  rcases writeReg_cases a d s with ⟨hl', -⟩ | ⟨-, ⟨received', hr, he⟩ | ⟨hr, -⟩⟩
  · omega
  · rw [h] at hr; cases hr; exact he
  · rw [h] at hr; cases hr

theorem writeReg_of_no_reply {a d : Byte} {s : State} (hl : (a &&& 0x7F#8).toNat < 16)
    (h : s.reply (writeFrame a d) = none) :
    writeReg a d s = .raised (raise (.transportFail (writeFrame a d) (s.seq.exchanges + 1))
      (s.lostFrame (writeFrame a d))) := by
  rcases writeReg_cases a d s with ⟨hl', -⟩ | ⟨-, ⟨received, hr, -⟩ | ⟨-, he⟩⟩
  · omega
  · rw [h] at hr; cases hr
  · exact he

/-! ### A read-modify-write -/

/-- If the read raises, so does the read-modify-write, with no write (R430). -/
theorem rmw_of_raised {a m x : Byte} {s t : State} (h : readReg a 1 s = .raised t) : rmw a m x s = .raised t := by
  rw [rmw, h, Run.andThen_raised]

/-- After a read that brought `v`, a read-modify-write is the write of the merged byte (R430). -/
theorem rmw_of_reply {a m x : Byte} {s : State} {b v : Byte} (hl : ReadLegal a 1)
    (h : s.reply (readFrame s.cfg a 1) = some [b, v]) :
    rmw a m x s = writeReg a (merge v m x) (s.exchanged (readFrame s.cfg a 1) [b, v]) := by
  rw [rmw, readReg_of_reply hl h, Run.andThen_done, List.drop_one, List.tail_cons, u8_singleton]

/-! ### Running an instruction -/

theorem exec_of_raised {i : Instr} {s t : State} (hs : Ready s) (hg : guardFault i s = none)
    (h : body i (accept i s) = .raised t) : exec i s = .next t := by
  rw [exec_eq_command, command_of_ready hs hg, h, finish_raised]

theorem exec_of_done {i : Instr} {s u : State} {r : Result} (hs : Ready s) (hg : guardFault i s = none)
    (h : body i (accept i s) = .done r u) :
    exec i s = .next { u with seq := .idle, outcome := some (.result r) } := by
  rw [exec_eq_command, command_of_ready hs hg, h, finish_done]

/-- A fault raised before any primitive, whatever the sequencer stood at, touches nothing but its record. -/
theorem raise_accept_untouched (f : FdcFault) (i : Instr) (s : State) : Untouched s (raise f (accept i s)) :=
  ⟨rfl, rfl, rfl, rfl, rfl, rfl⟩

theorem raise_accept_sameControl (f : FdcFault) (i : Instr) (s : State) : SameControl s (raise f (accept i s)) :=
  ⟨rfl, rfl⟩

end Sys2Proof.Machine
end

section
/-! PROOFS. The read frames (40_register_access.md R410 to R413): RD8, RD16 and RD24 are one read each, and differ in its
length and in how its bytes are put together. -/

namespace Sys2Proof.Machine

/-- A framer instruction is the read of `n` bytes at `a`, delivering what `value` makes of the bytes. -/
structure IsRead (i : Instr) (a : Byte) (n : Nat) (value : List Byte → Result) : Prop where
  code : i.code = none
  runs : ∀ s, body i s = (readReg a n s).andThen fun data u => .done (value data) u

theorem isRead_rd8 (a : Byte) : IsRead (.rd8 a) a 1 fun data => .data8 (u8 data) := ⟨rfl, fun _ => rfl⟩

theorem isRead_rd16 (a : Byte) : IsRead (.rd16 a) a 2 fun data => .data16 (u16 data) := ⟨rfl, fun _ => rfl⟩

theorem isRead_rd24 (a : Byte) : IsRead (.rd24 a) a 3 fun data => .data24 (u24 data) := ⟨rfl, fun _ => rfl⟩

/-- Two bytes received are the value, the first most significant (20_memory.md R210). -/
theorem u16_eq_append (b₁ b₂ : Byte) : u16 [b₁, b₂] = b₁ ++ b₂ := by
  apply BitVec.eq_of_toNat_eq
  have h₁ := b₁.isLt
  have h₂ := b₂.isLt
  rw [BitVec.toNat_append, ← Nat.shiftLeft_add_eq_or_of_lt h₂, Nat.shiftLeft_eq]
  simp only [u16, bigEndian, List.foldl_cons, List.foldl_nil, BitVec.toNat_ofNat]
  omega

/-- Three bytes received are the value, the first most significant (20_memory.md R210). -/
theorem u24_eq_append (b₁ b₂ b₃ : Byte) : u24 [b₁, b₂, b₃] = b₁ ++ b₂ ++ b₃ := by
  apply BitVec.eq_of_toNat_eq
  have h₁ := b₁.isLt
  have h₂ := b₂.isLt
  have h₃ := b₃.isLt
  rw [BitVec.toNat_append, ← Nat.shiftLeft_add_eq_or_of_lt h₃, BitVec.toNat_append,
    ← Nat.shiftLeft_add_eq_or_of_lt h₂, Nat.shiftLeft_eq, Nat.shiftLeft_eq]
  simp only [u24, bigEndian, List.foldl_cons, List.foldl_nil, BitVec.toNat_ofNat]
  omega

section
variable {i : Instr} {a : Byte} {n : Nat} {value : List Byte → Result} {s : State}

/-- An illegal read frame raises IllegalCommand before any exchange (R410). -/
theorem IsRead.exec_of_illegal (hi : IsRead i a n value) (hs : Ready s) (h : 16 < (a &&& 0x7F#8).toNat + n) :
    exec i s = .next (raise (.illegalFrame (readFrame s.cfg a n)) (accept i s)) := by
  refine exec_of_raised hs (guardFault_framer s hi.code) ?_
  rw [hi.runs, readReg_of_illegal h, Run.andThen_raised, accept_cfg]

theorem IsRead.raises_of_illegal (hi : IsRead i a n value) (hs : Ready s) (h : 16 < (a &&& 0x7F#8).toNat + n) :
    ∃ t, exec i s = .next t ∧ t.fault = some (.illegalFrame (readFrame s.cfg a n)) ∧ SameControl s t ∧ Untouched s t :=
  ⟨_, hi.exec_of_illegal hs h, rfl, raise_accept_sameControl _ i s, raise_accept_untouched _ i s⟩

/-- A read frame that is answered delivers the bytes after the first, and leaves the chip as its own move did. -/
theorem IsRead.exec_of_reply (hi : IsRead i a n value) (hs : Ready s) (hl : ReadLegal a n) {received : List Byte}
    {r : Result} (hr : value (received.drop 1) = r) (h : s.reply (readFrame s.cfg a n) = some received) :
    ∃ t, exec i s = .next t ∧ Delivered s t r ∧ SameControl s t ∧
      t.wire = s.wire ++ [.exchanged (readFrame s.cfg a n) received] ∧ t.regs = s.moved.regs := by
  have hrun : body i (accept i s) = .done r ((accept i s).exchanged (readFrame s.cfg a n) received) := by
    rw [hi.runs, readReg_of_reply (s := accept i s) hl h, Run.andThen_done, accept_cfg, hr]
  refine ⟨_, exec_of_done hs (guardFault_framer s hi.code) hrun, ?_, ?_, ?_, ?_⟩
  · simp [Delivered, hs.1]
  · simp [SameControl]
  · simp
  · exact State.exchanged_read_regs (s := accept i s) (writtenReg_read a) _ received

/-- A read frame that is lost raises TransportFail at the instruction's first exchange (R401; log 17). -/
theorem IsRead.exec_of_no_reply (hi : IsRead i a n value) (hs : Ready s) (hl : ReadLegal a n)
    (h : s.reply (readFrame s.cfg a n) = none) :
    ∃ t, exec i s = .next t ∧ t.fault = some (.transportFail (readFrame s.cfg a n) 1) ∧ SameControl s t ∧
      t.wire = s.wire ++ [.failed (readFrame s.cfg a n)] ∧ t.regs = s.moved.regs := by
  refine ⟨raise (.transportFail (readFrame s.cfg a n) 1) ((accept i s).lostFrame (readFrame s.cfg a n)),
    exec_of_raised hs (guardFault_framer s hi.code) ?_, rfl, ?_, ?_, ?_⟩
  · rw [hi.runs, readReg_of_no_reply (s := accept i s) hl h, Run.andThen_raised]
    rfl
  · simp [SameControl]
  · simp
  · exact State.lostFrame_read_regs (s := accept i s) (writtenReg_read a) _

end

/-- Settles O22: each read frame is one read of its length, with its illegal, its lost and its answered frame. -/
theorem readFramesReturnReceivedBytes : Obligations.ReadFramesReturnReceivedBytes := by
  intro s a hs
  refine ⟨fun h => ?_, fun h => ?_, fun h => ?_, fun h => ?_, fun h => ?_, fun h => ?_⟩
  · exact (isRead_rd8 a).raises_of_illegal hs (by omega)
  · exact (isRead_rd16 a).raises_of_illegal hs (by omega)
  · exact (isRead_rd24 a).raises_of_illegal hs (by omega)
  · have hl := readLegal_one h
    exact ⟨(isRead_rd8 a).exec_of_no_reply hs hl, fun _ b1 =>
      (isRead_rd8 a).exec_of_reply hs hl (congrArg Result.data8 (u8_singleton b1))⟩
  · have hl : ReadLegal a 2 := ⟨by decide, by decide, by omega⟩
    exact ⟨(isRead_rd16 a).exec_of_no_reply hs hl, fun _ b1 b2 =>
      (isRead_rd16 a).exec_of_reply hs hl (congrArg Result.data16 (u16_eq_append b1 b2))⟩
  · have hl : ReadLegal a 3 := ⟨by decide, by decide, by omega⟩
    exact ⟨(isRead_rd24 a).exec_of_no_reply hs hl, fun _ b1 b2 b3 =>
      (isRead_rd24 a).exec_of_reply hs hl (congrArg Result.data24 (u24_eq_append b1 b2 b3))⟩

/-! ### Illegal frames of all five framer instructions -/

theorem body_wr8 (a d : Byte) (s : State) :
    body (.wr8 a d) s = (writeReg a d s).andThen fun _ u => .done .unit u := rfl

theorem body_rmw (a m x : Byte) (s : State) :
    body (.rmw a m x) s = (rmw a m x s).andThen fun _ u => .done .unit u := rfl

theorem exec_wr8_of_illegal {a d : Byte} {s : State} (hs : Ready s) (h : 16 ≤ (a &&& 0x7F#8).toNat) :
    exec (.wr8 a d) s = .next (raise (.illegalFrame (writeFrame a d)) (accept (.wr8 a d) s)) := by
  refine exec_of_raised hs (guardFault_framer s rfl) ?_
  rw [body_wr8, writeReg_of_illegal h, Run.andThen_raised]

/-- An illegal read-modify-write raises with its read frame (R410; log 18). -/
theorem exec_rmw_of_illegal {a m x : Byte} {s : State} (hs : Ready s) (h : 16 ≤ (a &&& 0x7F#8).toNat) :
    exec (.rmw a m x) s = .next (raise (.illegalFrame (readFrame s.cfg a 1)) (accept (.rmw a m x) s)) := by
  refine exec_of_raised hs (guardFault_framer s rfl) ?_
  rw [body_rmw, rmw_of_raised (readReg_of_illegal (by omega)), Run.andThen_raised, accept_cfg]

/-- Settles O17: the frame constructor raises before the first primitive, and nothing but the fault is recorded. -/
theorem illegalFramesRaiseBeforeExchange : Obligations.IllegalFramesRaiseBeforeExchange := by
  intro s a d m x hs
  refine ⟨fun h => ⟨_, (isRead_rd8 a).exec_of_illegal hs (by omega), ?_⟩,
    fun h => ⟨_, (isRead_rd16 a).exec_of_illegal hs (by omega), ?_⟩,
    fun h => ⟨_, (isRead_rd24 a).exec_of_illegal hs (by omega), ?_⟩,
    fun h => ⟨_, exec_wr8_of_illegal hs h, ?_⟩, fun h => ⟨_, exec_rmw_of_illegal hs h, ?_⟩⟩
  all_goals exact ⟨rfl, rfl, rfl, raise_accept_sameControl _ _ s, raise_accept_untouched _ _ s⟩

end Sys2Proof.Machine
end

section
/-! PROOFS. What a frame does to the chip (40_register_access.md R420, 20_memory.md R222): the register a write frame
addresses and, where that is CR0, the conversion. -/

namespace Sys2Proof.Machine

/-! ### The conversion after a frame -/

/-- A read frame leaves the conversion as the chip's own move left it. -/
theorem State.exchanged_read_conv {s : State} {a : Byte} (h : writtenReg a = none) (data received : List Byte) :
    (s.exchanged (a :: data) received).conv = s.moved.conv := by
  rw [State.exchanged_conv]
  unfold State.stored
  split
  · rename_i heq; injection heq with h1 _; subst h1; simp [h]
  · rfl

/-- A write frame that addresses CR0 acts on the conversion as the chip's own move left it. -/
theorem State.exchanged_cr0_conv {s : State} {a : Byte} (h : (a &&& 0x7F#8).toNat < 16)
    (h0 : (a &&& 0x7F#8).toNat = regAddr s.cfg .cr0) (d : Byte) (received : List Byte) :
    (s.exchanged (writeFrame a d) received).conv = convAfterWrite s.cfg s.moved.conv d s.draw := by
  rw [State.exchanged_conv]
  simp only [State.stored, writeFrame, writtenReg_write h, State.pass_cfg, State.moved_cfg, State.pass_conv]
  exact if_pos h0

/-- A write frame to another register leaves the conversion. -/
theorem State.exchanged_write_conv {s : State} {a : Byte} (h : (a &&& 0x7F#8).toNat < 16)
    (h0 : (a &&& 0x7F#8).toNat ≠ regAddr s.cfg .cr0) (d : Byte) (received : List Byte) :
    (s.exchanged (writeFrame a d) received).conv = s.moved.conv := by
  rw [State.exchanged_conv]
  simp only [State.stored, writeFrame, writtenReg_write h, State.pass_cfg, State.moved_cfg, State.pass_conv]
  exact if_neg h0

theorem State.lostFrame_read_conv {s : State} {a : Byte} (h : writtenReg a = none) (data : List Byte) :
    (s.lostFrame (a :: data)).conv = s.moved.conv := by
  rw [State.lostFrame_conv]
  unfold State.tornBy
  split
  · rename_i heq; injection heq with h1 _; subst h1; simp [h]
  · rfl

/-- A lost write frame to a register other than CR0 leaves the conversion (log 7). -/
theorem State.lostFrame_write_conv {s : State} {a : Byte} (h : (a &&& 0x7F#8).toNat < 16)
    (h0 : (a &&& 0x7F#8).toNat ≠ regAddr s.cfg .cr0) (d : Byte) :
    (s.lostFrame (writeFrame a d)).conv = s.moved.conv := by
  rw [State.lostFrame_conv]
  simp only [State.tornBy, writeFrame, writtenReg_write h, State.pass_cfg, State.moved_cfg, State.pass_conv]
  exact if_neg h0

/-- `convAfterWrite` is what the sources say a CR0 write does to the conversion, whatever is drawn (R121, R140, R142,
R914; log 6). -/
theorem actsOnConversion_of_conv {u t : State} {v : Byte} {d : Draw}
    (h : t.conv = convAfterWrite u.cfg u.moved.conv v d) : ActsOnConversion u t v where
  starts hnone := by rw [h, convAfterWrite_started hnone]
  goesOn hpending hcmode honeShot := by
    rw [h, hpending, convAfterWrite_pending, if_pos]
    simp [staysPending, hcmode, honeShot]
  openCase hpending := by
    rw [h, hpending, convAfterWrite_pending]
    split
    · exact .inl rfl
    · exact .inr rfl

/-! ### The registers after a write frame -/

theorem valueKept_of_not_owned {c : Config} {a : Nat} (h : chipOwns c a = false) (d : Draw) (v : Byte) :
    valueKept c d a v = v := by
  simp [valueKept, h]

/-- A register that is not the chip's own holds the byte written to it (R420). -/
theorem State.exchanged_write_read_same {s : State} {a : Byte} (h : (a &&& 0x7F#8).toNat < 16)
    (hown : chipOwns s.cfg (a &&& 0x7F#8).toNat = false) (d : Byte) (received : List Byte) :
    Mem.read s.cfg (s.exchanged (writeFrame a d) received).regs (a &&& 0x7F#8).toNat = d := by
  rw [State.exchanged_write_regs h, Mem.read_write_same, valueKept_of_not_owned hown]

theorem State.exchanged_write_read_other {s : State} {a : Byte} (h : (a &&& 0x7F#8).toNat < 16) {b : Nat}
    (hb : b ≠ (a &&& 0x7F#8).toNat) (d : Byte) (received : List Byte) :
    Mem.read s.cfg (s.exchanged (writeFrame a d) received).regs b = Mem.read s.cfg s.moved.regs b := by
  rw [State.exchanged_write_regs h, Mem.read_write_other _ _ hb]

/-! ### WR8 -/

/-- Settles O24: WR8 is one write frame, and its effect on the chip is that of the frame. -/
theorem writeFrameStoresByte : Obligations.WriteFrameStoresByte := by
  intro s a d hs ha hanswers
  have hlt : (a &&& 0x7F#8).toNat < 16 := by omega
  obtain ⟨received, hreply⟩ := State.reply_of_answers (out := writeFrame a d) hanswers
  have hrun : body (.wr8 a d) (accept (.wr8 a d) s) =
      .done .unit ((accept (.wr8 a d) s).exchanged (writeFrame a d) received) := by
    rw [body_wr8, writeReg_of_reply (s := accept (.wr8 a d) s) hlt hreply, Run.andThen_done]
  refine ⟨_, received, exec_of_done hs (guardFault_framer s rfl) hrun, ?_, ?_, ?_, fun hown => ?_, fun b hb => ?_,
    fun hne => ?_, fun hcr0 => ?_⟩
  · simp [Delivered, hs.1]
  · simp [SameControl]
  · simp [writeFrame]
  · rw [State.exchanged_cfg]
    exact State.exchanged_write_read_same (s := accept (.wr8 a d) s) hlt hown d received
  · rw [State.exchanged_cfg]
    exact State.exchanged_write_read_other (s := accept (.wr8 a d) s) hlt hb d received
  · exact State.exchanged_write_conv (s := accept (.wr8 a d) s) hlt hne d received
  · exact actsOnConversion_of_conv (d := s.draw)
      (State.exchanged_cr0_conv (s := accept (.wr8 a d) s) hlt hcr0 d received)

end Sys2Proof.Machine
end

section
/-! PROOFS. RMW (40_register_access.md R430, R431): a read and, where it was answered, the write of the merged byte. -/

namespace Sys2Proof.Machine

theorem and_or_bit7 (a : Byte) : (a &&& 0x7F#8) ||| 0x80#8 = a ||| 0x80#8 := by
  revert a; decide

section
variable {s : State} {a m x : Byte}

/-- A read-modify-write whose read is lost issues no write (R430). -/
theorem exec_rmw_of_no_reply (hs : Ready s) (hl : ReadLegal a 1) (h : s.reply (readFrame s.cfg a 1) = none) :
    exec (.rmw a m x) s = .next (raise (.transportFail (readFrame s.cfg a 1) 1)
      ((accept (.rmw a m x) s).lostFrame (readFrame s.cfg a 1))) := by
  refine exec_of_raised hs (guardFault_framer s rfl) ?_
  rw [body_rmw, rmw_of_raised (readReg_of_no_reply (s := accept (.rmw a m x) s) hl h), Run.andThen_raised]
  rfl

/-- The state between the two frames of a read-modify-write. -/
def rmwMiddle (a m x : Byte) (received : List Byte) (s : State) : State :=
  (accept (.rmw a m x) s).exchanged (readFrame s.cfg a 1) received

theorem rmwMiddle_draw (received : List Byte) : (rmwMiddle a m x received s).draw = s.drawAt 1 := by
  simp [rmwMiddle, State.draw]

theorem rmwMiddle_cfg (received : List Byte) : (rmwMiddle a m x received s).cfg = s.cfg := by
  simp [rmwMiddle]

/-- The chip makes the same move before the write, whatever instruction the sequencer runs. -/
theorem rmwMiddle_moved_conv (received : List Byte) :
    (rmwMiddle a m x received s).moved.conv = (s.exchanged (readFrame s.cfg a 1) received).moved.conv :=
  congrArg (fun u => u.moved.conv)
    (State.exchanged_control s (.busy (.rmw a m x) 0 ⟨[], none, 0⟩) none s.wire (readFrame s.cfg a 1) received)

theorem body_rmw_of_reply {b v : Byte} (hl : ReadLegal a 1) (h : s.reply (readFrame s.cfg a 1) = some [b, v]) :
    body (.rmw a m x) (accept (.rmw a m x) s) =
      (writeReg a (merge v m x) (rmwMiddle a m x [b, v] s)).andThen fun _ u => .done .unit u := by
  rw [body_rmw, rmw_of_reply (s := accept (.rmw a m x) s) hl h]
  rfl

/-- A read-modify-write whose write is lost raises at its second exchange (log 17). -/
theorem exec_rmw_of_lost_write (hs : Ready s) (hl : ReadLegal a 1) {b v : Byte}
    (h : s.reply (readFrame s.cfg a 1) = some [b, v])
    (hlost : (rmwMiddle a m x [b, v] s).reply (writeFrame a (merge v m x)) = none) :
    exec (.rmw a m x) s = .next (raise (.transportFail (writeFrame a (merge v m x)) 2)
      ((rmwMiddle a m x [b, v] s).lostFrame (writeFrame a (merge v m x)))) := by
  have hindex : (rmwMiddle a m x [b, v] s).seq.exchanges + 1 = 2 := by
    simp [rmwMiddle, Seq.exchanged, Seq.exchanges]
  refine exec_of_raised hs (guardFault_framer s rfl) ?_
  rw [body_rmw_of_reply hl h, writeReg_of_no_reply hl.lt hlost, Run.andThen_raised, hindex]

/-- The state after the two frames of a read-modify-write, the second having received `received`. -/
def rmwWritten (a m x b v : Byte) (received : List Byte) (s : State) : State :=
  (rmwMiddle a m x [b, v] s).exchanged (writeFrame a (merge v m x)) received

/-- Where the register is CR0, the write acts on the conversion as the chip's own move before it left it. -/
theorem rmwWritten_conv (h : (a &&& 0x7F#8).toNat < 16) (h0 : (a &&& 0x7F#8).toNat = regAddr s.cfg .cr0) (b v : Byte)
    (received : List Byte) :
    (rmwWritten a m x b v received s).conv =
      convAfterWrite (s.exchanged (readFrame s.cfg a 1) [b, v]).cfg
        (s.exchanged (readFrame s.cfg a 1) [b, v]).moved.conv (merge v m x) (s.drawAt 1) := by
  rw [rmwWritten, State.exchanged_cr0_conv h (by rwa [rmwMiddle_cfg]), rmwMiddle_cfg, rmwMiddle_draw,
    rmwMiddle_moved_conv, State.exchanged_cfg]

/-- A register that is not the chip's own holds the merged byte. -/
theorem rmwWritten_read (h : (a &&& 0x7F#8).toNat < 16) (hown : chipOwns s.cfg (a &&& 0x7F#8).toNat = false)
    (b v : Byte) (received : List Byte) :
    Mem.read (rmwWritten a m x b v received s).cfg (rmwWritten a m x b v received s).regs (a &&& 0x7F#8).toNat =
      merge v m x := by
  rw [rmwWritten, State.exchanged_cfg]
  exact State.exchanged_write_read_same h (by rwa [rmwMiddle_cfg]) _ received

theorem exec_rmw_of_replies (hs : Ready s) (hl : ReadLegal a 1) {b v : Byte} {received : List Byte}
    (h : s.reply (readFrame s.cfg a 1) = some [b, v])
    (hwrite : (rmwMiddle a m x [b, v] s).reply (writeFrame a (merge v m x)) = some received) :
    exec (.rmw a m x) s =
      .next { rmwWritten a m x b v received s with seq := .idle, outcome := some (.result .unit) } := by
  refine exec_of_done hs (guardFault_framer s rfl) ?_
  rw [body_rmw_of_reply hl h, writeReg_of_reply hl.lt hwrite, Run.andThen_done]
  rfl

end

/-- Settles O25: the four ends of a read-modify-write are those of its read, then those of its write. -/
theorem rmwMergesOwnedBits : Obligations.RmwMergesOwnedBits := by
  intro s a m x hs
  refine ⟨fun h => ?_, fun h hlost => ?_, fun b v h hreply hlost => ?_, fun h hanswers => ?_⟩
  · exact ⟨_, exec_rmw_of_illegal hs h, rfl, raise_accept_sameControl _ _ s, raise_accept_untouched _ _ s⟩
  · refine ⟨_, exec_rmw_of_no_reply hs (readLegal_one h) hlost, rfl, ?_, ?_⟩
    · simp [SameControl]
    · simp [readFrame]
  · have hwrite : (rmwMiddle a m x [b, v] s).reply (writeFrame a (merge v m x)) = none :=
      State.reply_of_not_answers (by rw [rmwMiddle_draw]; exact hlost)
    refine ⟨_, exec_rmw_of_lost_write hs (readLegal_one h) hreply hwrite, ?_, ?_, ?_⟩
    · simp [writeFrame, and_or_bit7]
    · simp [rmwMiddle, SameControl]
    · simp [rmwMiddle, writeFrame, readFrame, and_or_bit7]
  · have hlt := (readLegal_one h).lt
    obtain ⟨hfirst, hsecond⟩ := State.answersFrom_cons hanswers
    obtain ⟨hsecond, -⟩ : answers (s.drawAt 1) 2 = true ∧ _ := Bool.and_eq_true_iff.1 hsecond
    obtain ⟨_, hreply⟩ := State.reply_of_answers (out := readFrame s.cfg a 1) hfirst
    obtain ⟨b, v, rfl⟩ := State.reply_two hreply
    obtain ⟨_, hwrite⟩ := State.reply_of_answers (s := rmwMiddle a m x [b, v] s) (out := writeFrame a (merge v m x))
      (by rw [rmwMiddle_draw]; exact hsecond)
    obtain ⟨c0, c1, rfl⟩ := State.reply_two hwrite
    refine ⟨_, s.exchanged (readFrame s.cfg a 1) [b, v], v,
      exec_rmw_of_replies hs (readLegal_one h) hreply hwrite, ?_, ?_, ⟨b, c0, c1, hreply, rfl, ?_⟩,
      fun hcr0 => ?_, fun hown => ?_, merge_getLsbD v m x⟩
    · simp [Delivered, rmwWritten, rmwMiddle, hs.1]
    · simp [SameControl, rmwWritten, rmwMiddle]
    · simp [rmwWritten, rmwMiddle, writeFrame, readFrame, and_or_bit7]
    · exact actsOnConversion_of_conv (d := s.drawAt 1)
        (rmwWritten_conv hlt hcr0 b v [c0, c1])
    · exact rmwWritten_read hlt hown b v [c0, c1]

end Sys2Proof.Machine
end

section
/-! PROOFS. The frame of an instruction on the chip (40_register_access.md R420, R432): with a chip that makes no move of its
own, an operation changes only the register it writes, and the conversion only where that is CR0. -/

namespace Sys2Proof.Machine

/-! ### A quiet chip's conversion -/

/-- A chip that makes no move leaves its conversion. -/
theorem State.moved_conv_of_quiet {s : State} (h : quiet s.draw = true) : s.moved.conv = s.conv := by
  rw [State.moved_conv]
  unfold quiet at h
  split at h
  · rename_i hd; simp [hd, chipConv, endsConversion]
  · cases h

/-! ### The frame -/

/-- A part of a step whose answers find a quiet chip changes the registers at these addresses only, and the conversion only
if CR0 is one of them. -/
structure ChangesOnly (stored : List Nat) (s t : State) : Prop where
  frame : Frame s t
  regs : AllDrawn s t quiet → ∀ a, a ∉ stored → Mem.read s.cfg t.regs a = Mem.read s.cfg s.regs a
  conv : AllDrawn s t quiet → regAddr s.cfg .cr0 ∉ stored → t.conv = s.conv

theorem ChangesOnly.trans {stored : List Nat} {s u t : State} (h₁ : ChangesOnly stored s u)
    (h₂ : ChangesOnly stored u t) : ChangesOnly stored s t where
  frame := h₁.frame.trans h₂.frame
  regs hq a ha := by
    have hu := h₂.regs (hq.right h₁.frame) a ha
    rw [h₁.frame.cfg] at hu
    exact hu.trans (h₁.regs (hq.left h₂.frame.drawn) a ha)
  conv hq h0 :=
    (h₂.conv (hq.right h₁.frame) (h₁.frame.cfg ▸ h0)).trans (h₁.conv (hq.left h₂.frame.drawn) h0)

/-- A part of a step that leaves the chip changes nothing of it. -/
theorem ChangesOnly.of_same {stored : List Nat} {s t : State} (hf : Frame s t) (hregs : t.regs = s.regs)
    (hconv : t.conv = s.conv) : ChangesOnly stored s t where
  frame := hf
  regs _ _ _ := by rw [hregs]
  conv _ _ := hconv

/-- Neither does one in which the chip makes its own move, which is none. -/
theorem ChangesOnly.of_moved {stored : List Nat} {s t : State} (hf : Frame s t) (hlt : s.drawn < t.drawn)
    (hregs : t.regs = s.moved.regs) (hconv : t.conv = s.moved.conv) : ChangesOnly stored s t where
  frame := hf
  regs hq _ _ := by rw [hregs, State.moved_regs_of_quiet (hq.draw hlt)]
  conv hq _ := by rw [hconv, State.moved_conv_of_quiet (hq.draw hlt)]

/-- One whose frame wrote a register after that move changes that register, and the conversion only if it is CR0. -/
theorem ChangesOnly.of_written {stored : List Nat} {s t : State} {a : Nat} {v : Byte} (ha : a ∈ stored) (hf : Frame s t)
    (hlt : s.drawn < t.drawn) (hregs : t.regs = Mem.write s.cfg s.moved.regs a v)
    (hconv : a ≠ regAddr s.cfg .cr0 → t.conv = s.moved.conv) : ChangesOnly stored s t where
  frame := hf
  regs hq b hb := by
    have hba : b ≠ a := fun he => hb (he ▸ ha)
    rw [hregs, Mem.read_write_other _ _ hba, State.moved_regs_of_quiet (hq.draw hlt)]
  conv hq h0 := by
    rw [hconv fun he => h0 (he ▸ ha), State.moved_conv_of_quiet (hq.draw hlt)]

/-! ### The framer's operations -/

theorem readReg_changesOnly (stored : List Nat) (a : Byte) (n : Nat) (s : State) :
    ChangesOnly stored s (readReg a n s).state := by
  have hf := (readReg_prims a n s).frame
  rcases readReg_cases a n s with ⟨-, h⟩ | ⟨-, ⟨r, -, h⟩ | ⟨-, h⟩⟩ <;> rw [h] at hf ⊢
  · exact .of_same hf rfl rfl
  · exact .of_moved hf (by simp) (State.exchanged_read_regs (writtenReg_read a) ..)
      (State.exchanged_read_conv (writtenReg_read a) ..)
  · exact .of_moved hf (by simp) (State.lostFrame_read_regs (writtenReg_read a) _)
      (State.lostFrame_read_conv (writtenReg_read a) _)

/-- A write frame that is lost changes no more than one that arrives (log 7). -/
theorem writeReg_changesOnly {stored : List Nat} {a : Byte} (ha : (a &&& 0x7F#8).toNat ∈ stored) (d : Byte)
    (s : State) : ChangesOnly stored s (writeReg a d s).state := by
  have hf := (writeReg_prims a d s).frame
  rcases writeReg_cases a d s with ⟨-, h⟩ | ⟨hlt, ⟨r, -, h⟩ | ⟨-, h⟩⟩ <;> rw [h] at hf ⊢
  · exact .of_same hf rfl rfl
  · exact .of_written ha hf (by simp) (State.exchanged_write_regs hlt r)
      fun h0 => State.exchanged_write_conv hlt h0 d r
  · exact .of_written ha hf (by simp) (State.lostFrame_write_regs hlt)
      fun h0 => State.lostFrame_write_conv hlt h0 d

theorem rmw_changesOnly {stored : List Nat} {a : Byte} (ha : (a &&& 0x7F#8).toNat ∈ stored) (m x : Byte) (s : State) :
    ChangesOnly stored s (rmw a m x s).state :=
  Run.andThen_rel (R := ChangesOnly stored) ChangesOnly.trans (readReg_changesOnly stored a 1 s) fun _ u _ =>
    writeReg_changesOnly ha _ u

theorem memWrite_changesOnly {stored : List Nat} {r : Reg} {s : State} (hr : regAddr s.cfg r ∈ stored) (v : Byte) :
    ChangesOnly stored s (memWrite r v s).state :=
  writeReg_changesOnly (by rwa [regByte_masked, regByte_toNat]) v s

theorem rmwReg_changesOnly {stored : List Nat} {r : Reg} {s : State} (hr : regAddr s.cfg r ∈ stored) (m x : Byte) :
    ChangesOnly stored s (rmwReg r m x s).state :=
  rmw_changesOnly (by rwa [regByte_masked, regByte_toNat]) m x s

theorem setModeBody_changesOnly {stored : List Nat} {s : State} (h0 : regAddr s.cfg .cr0 ∈ stored) (m : Mode) :
    ChangesOnly stored s (setModeBody m s).state :=
  Run.andThen_rel (R := ChangesOnly stored) ChangesOnly.trans (rmwReg_changesOnly h0 _ _) fun _ u _ =>
    .of_same (Prim.mirrored m u).frame rfl rfl

/-! ### The operations of an instruction -/

/-- The registers a command writes with no read before are among those it is said to write. -/
theorem regAddr_mem_storedTo_of_plainWrites {i : Instr} {r : Reg} (h : r ∈ plainWrites i) (s : State) :
    regAddr s.cfg r ∈ storedTo i s := by
  cases i with
  | begin =>
    obtain rfl | rfl : r = .mask ∨ r = .cjto := by simpa [plainWrites] using h
    all_goals simp [storedTo]
  | settcthr flow fhigh => exact List.mem_map_of_mem (f := regAddr s.cfg) h
  | setcjthr low high => exact List.mem_map_of_mem (f := regAddr s.cfg) h
  | _ => simp [plainWrites] at h

/-- So are those of its read-modify-writes. -/
theorem regAddr_mem_storedTo_of_modifies {i : Instr} {s : State} {r : Reg} {m x : Byte} (h : (r, m, x) ∈ modifies i s) :
    regAddr s.cfg r ∈ storedTo i s := by
  cases i with
  | begin =>
    obtain ⟨rfl, -⟩ | ⟨rfl, -⟩ := by simpa [modifies] using h
    all_goals simp [storedTo]
  | settctype t =>
    obtain ⟨rfl, -⟩ := by simpa [modifies] using h
    simp [storedTo]
  | setnf f =>
    obtain ⟨rfl, -⟩ := by simpa [modifies] using h
    simp [storedTo]
  | trigger =>
    obtain ⟨hm, rfl, -⟩ := by simpa [modifies] using h
    simp [storedTo, hm]
  | readtc =>
    obtain ⟨hm, rfl, -⟩ := by simpa [modifies] using h
    simp [storedTo, hm]
  | _ => simp [modifies] at h

theorem Op.changesOnly {i : Instr} {s t : State} {f : Bool} (h : Op i s f t) : ChangesOnly (storedTo i s) s t := by
  have hf := h.prims.frame
  cases h with
  | opened => exact .of_moved hf (by simp) (State.opened_regs s) (State.opened_conv s)
  | slept ms => exact .of_moved hf (by simp) (sleep_regs ms s) (sleep_conv ms s)
  | read a n => exact readReg_changesOnly _ a n s
  | wrote v _ own => exact memWrite_changesOnly (regAddr_mem_storedTo_of_plainWrites own s) v
  | modified _ own => exact rmwReg_changesOnly (regAddr_mem_storedTo_of_modifies own) _ _
  | moded m _ only =>
    refine setModeBody_changesOnly ?_ m
    rcases only with rfl | ⟨code, rfl⟩ <;> simp [storedTo]
  | wroteAt a d _ only => subst only; exact writeReg_changesOnly (by simp [storedTo]) d s
  | modifiedAt a m x _ only => subst only; exact rmw_changesOnly (by simp [storedTo]) m x s
  | _ => exact .of_same hf rfl rfl

theorem Ops.changesOnly {i : Instr} {s t : State} {f : Bool} (h : Ops i s f t) :
    ChangesOnly (Machine.storedTo i s) s t := by
  induction h with
  | empty s => exact .of_same (.refl s) rfl rfl
  | one h => exact h.changesOnly
  | seq h₁ _ ih₁ ih₂ => exact ih₁.trans (h₁.storedTo ▸ ih₂)

/-- Settles O53: an instruction is a chain of its operations, faults included, and each changes only what it writes. -/
theorem onlyAddressedRegistersChange : Obligations.OnlyAddressedRegistersChange := by
  intro i s t h hq
  obtain ⟨_, hops⟩ := exec_ops h
  obtain ⟨hframe, hregs, hconv⟩ := hops.changesOnly
  rw [hframe.cfg]
  exact ⟨hregs hq, hconv hq⟩

end Sys2Proof.Machine
end

section
/-! PROOFS. The conversion mode's two bits and the type field (41_decoders.md R541, R570). -/

namespace Sys2Proof.Machine

theorem oneShotSet_eq_getLsbD (c : Config) (v : Byte) : oneShotSet c v = v.getLsbD c.bitOneShot :=
  and_bitMask_ne_zero v c.bitOneShot

/-- A read-modify-write changes 1SHOT only where its mask owns it (40_register_access.md R430). -/
theorem oneShotSet_merge (c : Config) (v m x : Byte) :
    oneShotSet c (merge v m x) = if oneShotSet c m then oneShotSet c x else oneShotSet c v := by
  simp only [oneShotSet_eq_getLsbD, merge_getLsbD]

/-- A mode owns the bits CMODE and 1SHOT and no other (R570). -/
theorem modeMask_getLsbD (c : Config) (k : Fin 8) :
    (modeMask c).getLsbD k = (decide (k = c.bitCmode) || decide (k = c.bitOneShot)) := by
  simp only [modeMask, cmodeMask, oneShotMask, BitVec.getLsbD_or, bitMask_getLsbD]

theorem oneShotSet_modeMask (c : Config) : oneShotSet c (modeMask c) = true := by
  rw [oneShotSet_eq_getLsbD, modeMask_getLsbD, decide_eq_true rfl, Bool.or_true]

theorem oneShotSet_oneShotMask (c : Config) : oneShotSet c (oneShotMask c) = true := by
  rw [oneShotSet_eq_getLsbD, oneShotMask, bitMask_getLsbD, decide_eq_true rfl]

theorem oneShotSet_cmodeMask {c : Config} (hc : c.wellFormed = true) : oneShotSet c (cmodeMask c) = false := by
  rw [oneShotSet_eq_getLsbD, cmodeMask, bitMask_getLsbD]
  exact decide_eq_false (Config.wellFormed_bits hc).1.symm

/-- The bits of a mode set 1SHOT exactly outside Continuous (R570). -/
theorem oneShotSet_modeBits {c : Config} (hc : c.wellFormed = true) (m : Mode) :
    oneShotSet c (modeBits c m) = decide (m ≠ .continuous) := by
  cases m with
  | continuous => exact oneShotSet_cmodeMask hc
  | oneShot => exact oneShotSet_oneShotMask c
  | oneShotNoWait => exact oneShotSet_oneShotMask c

/-- Settles O37: the stored byte takes the mode's two bits from `modeBits` and the others from the byte read. -/
theorem modeBitsOwnTwoBits : Obligations.ModeBitsOwnTwoBits := by
  intro c m v hc
  refine ⟨?_, ?_, fun k hcmode honeShot => ?_⟩
  · rw [cmodeSet_merge, if_pos (cmodeSet_modeMask c), cmodeSet_modeBits hc, decide_eq_true_iff]
  · rw [oneShotSet_merge, if_pos (oneShotSet_modeMask c), oneShotSet_modeBits hc, decide_eq_true_iff]
  · have hfree : (modeMask c).getLsbD k = false := by
      rw [modeMask_getLsbD, decide_eq_false hcmode, decide_eq_false honeShot, Bool.or_self]
    rw [merge_getLsbD, hfree, if_neg Bool.false_ne_true]

/-- The encoder keeps the low nibble of its byte, which is all a code is. -/
theorem encodeType_setWidth (v : BitVec 4) : encodeType (v.setWidth 8) = v := by
  rw [encodeType, BitVec.setWidth_setWidth_of_le _ (by omega), BitVec.setWidth_eq]

/-- Settles O30: the decoder is the identity, so both laws are one. -/
theorem typeFieldRoundTrips : Obligations.TypeFieldRoundTrips :=
  fun v => ⟨encodeType_setWidth v, encodeType_setWidth v⟩

end Sys2Proof.Machine
end

section
/-! PROOFS. binary32 (00_scope.md R16): the fields of the pattern `toF32` builds, and that it denotes its argument
exactly; from which the two temperature decoders are exact (41_decoders.md R500 to R520). -/

namespace Sys2Proof.Machine

/-! ### A pattern put together from its fields -/

/-- The pattern with these sign, exponent and fraction fields (00_scope.md R16). -/
def f32Pattern (sign : Bool) (e f : Nat) : F32 :=
  BitVec.ofNat 32 ((if sign then 2 ^ 31 else 0) + e * 2 ^ 23 + f)

section
variable {e f : Nat} (sign : Bool) (he : e < 2 ^ 8) (hf : f < 2 ^ 23)
include he hf

/-- The three fields do not overlap, so the sum is a 32-bit number. -/
theorem f32Pattern_toNat :
    (f32Pattern sign e f).toNat = (if sign then 2 ^ 31 else 0) + e * 2 ^ 23 + f := by
  rw [f32Pattern, BitVec.toNat_ofNat]
  split <;> omega

theorem f32Pattern_negative : f32Negative (f32Pattern sign e f) = sign := by
  rw [f32Negative, ← BitVec.testBit_toNat, f32Pattern_toNat sign he hf, Nat.testBit_eq_decide_div_mod_eq]
  cases sign with
  | false => exact decide_eq_false (by rw [if_neg Bool.false_ne_true]; omega)
  | true => exact decide_eq_true (by rw [if_pos rfl]; omega)

theorem f32Pattern_exponent : f32Exponent (f32Pattern sign e f) = e := by
  rw [f32Exponent, BitVec.extractLsb'_toNat, f32Pattern_toNat sign he hf, Nat.shiftRight_eq_div_pow]
  split <;> omega

/-- A number with a nonzero exponent field is normal: its significand has the leading one. -/
theorem f32Pattern_significand (hpos : 0 < e) : f32Significand (f32Pattern sign e f) = f + 2 ^ 23 := by
  rw [f32Significand, f32Pattern_exponent sign he hf, if_neg hpos.ne', BitVec.extractLsb'_toNat,
    f32Pattern_toNat sign he hf, Nat.shiftRight_eq_div_pow]
  split <;> omega

end

/-! ### `toF32` -/

/-- Shifted left until its leading one stands in bit 23, an integer of at most 24 bits is a normal significand. -/
theorem normalised_bounds {n : Nat} (hn : n ≠ 0) (hlt : n < 2 ^ 24) :
    2 ^ 23 ≤ n * 2 ^ (23 - n.log2) ∧ n * 2 ^ (23 - n.log2) < 2 ^ 24 := by
  have hlog : n.log2 < 24 := (Nat.log2_lt hn).2 hlt
  have hlow : 2 ^ n.log2 ≤ n := Nat.log2_self_le hn
  have hhigh : n < 2 ^ (n.log2 + 1) := Nat.lt_log2_self
  constructor
  · calc 2 ^ 23 = 2 ^ n.log2 * 2 ^ (23 - n.log2) := by rw [← pow_add]; congr 1; omega
      _ ≤ n * 2 ^ (23 - n.log2) := Nat.mul_le_mul_right _ hlow
  · calc n * 2 ^ (23 - n.log2) < 2 ^ (n.log2 + 1) * 2 ^ (23 - n.log2) :=
          Nat.mul_lt_mul_of_pos_right hhigh (by positivity)
      _ = 2 ^ 24 := by rw [← pow_add]; congr 1; omega

theorem toF32_zero (k : Nat) : toF32 0 k = 0 := rfl

theorem toF32_eq_pattern {v : Int} (hv : v ≠ 0) (k : Nat) :
    toF32 v k = f32Pattern (decide (v < 0)) (v.natAbs.log2 + 127 - k)
      (v.natAbs * 2 ^ (23 - v.natAbs.log2) - 2 ^ 23) := by
  simp only [toF32, f32Pattern, if_neg hv, decide_eq_true_eq]

section
variable {v : Int} {k : Nat} (hv : v ≠ 0) (hlt : v.natAbs < 2 ^ 24) (hk : k ≤ 126)
include hv hlt hk

/-- The fields `toF32` puts together are in range, the exponent that of a normal number. -/
theorem toF32_fields_bounds :
    0 < v.natAbs.log2 + 127 - k ∧ v.natAbs.log2 + 127 - k < 255 ∧
      v.natAbs * 2 ^ (23 - v.natAbs.log2) - 2 ^ 23 < 2 ^ 23 := by
  have hn : v.natAbs ≠ 0 := Int.natAbs_ne_zero.2 hv
  have hlog : v.natAbs.log2 < 24 := (Nat.log2_lt hn).2 hlt
  have hbounds := normalised_bounds hn hlt
  omega

theorem toF32_negative : f32Negative (toF32 v k) = decide (v < 0) := by
  obtain ⟨-, he, hf⟩ := toF32_fields_bounds hv hlt hk
  rw [toF32_eq_pattern hv k, f32Pattern_negative _ (by omega) hf]

theorem toF32_exponent : f32Exponent (toF32 v k) = v.natAbs.log2 + 127 - k := by
  obtain ⟨-, he, hf⟩ := toF32_fields_bounds hv hlt hk
  rw [toF32_eq_pattern hv k, f32Pattern_exponent _ (by omega) hf]

theorem toF32_significand : f32Significand (toF32 v k) = v.natAbs * 2 ^ (23 - v.natAbs.log2) := by
  obtain ⟨hpos, he, hf⟩ := toF32_fields_bounds hv hlt hk
  have hlow := (normalised_bounds (Int.natAbs_ne_zero.2 hv) hlt).1
  rw [toF32_eq_pattern hv k, f32Pattern_significand _ (by omega) hf hpos, Nat.sub_add_cancel hlow]

/-- The shift that normalises the significand and the exponent cancel: the magnitude is `|v| / 2^k`, exactly. -/
theorem toF32_scaled : f32Scaled (toF32 v k) = v.natAbs * 2 ^ (150 - k) := by
  have hlog : v.natAbs.log2 < 24 := (Nat.log2_lt (Int.natAbs_ne_zero.2 hv)).2 hlt
  rw [f32Scaled, toF32_significand hv hlt hk, toF32_exponent hv hlt hk, max_eq_left (by omega), mul_assoc, ← pow_add]
  congr 2
  omega

end

section
variable {v : Int} {k : Nat} (hlt : v.natAbs < 2 ^ 24) (hk : k ≤ 126)
include hlt hk

theorem toF32_finite : f32Finite (toF32 v k) = true := by
  by_cases hv : v = 0
  · rw [hv, toF32_zero]; decide
  · obtain ⟨-, he, -⟩ := toF32_fields_bounds hv hlt hk
    rw [f32Finite, toF32_exponent hv hlt hk, bne_iff_ne]
    exact he.ne

/-- R520: an integer of at most 24 bits over a power of two in range is a binary32 value. -/
theorem toF32_value : f32Value (toF32 v k) = (v : ℚ) / 2 ^ k := by
  by_cases hv : v = 0
  · have hscaled : f32Scaled 0 = 0 := by decide
    rw [hv, toF32_zero, f32Value, hscaled]
    simp
  · have hsign : (if decide (v < 0) then -1 else 1) * (v.natAbs : ℚ) = v := by
      rw [Nat.cast_natAbs]
      rcases lt_or_ge v 0 with hneg | hnonneg
      · simp [hneg, abs_of_neg hneg]
      · simp [hnonneg.not_gt, abs_of_nonneg hnonneg]
    have hpow : (2 : ℚ) ^ 150 = 2 ^ (150 - k) * 2 ^ k := by rw [← pow_add]; congr 1; omega
    rw [f32Value, toF32_negative hv hlt hk, toF32_scaled hv hlt hk, Nat.cast_mul, ← mul_assoc, hsign, hpow]
    push_cast
    field_simp

end

/-! ### The two temperature decoders -/

/-- OR-ing the top byte with ones where bit 23 is set is sign extension (R500). -/
theorem signExtend_eq_or_top_byte (raw : BitVec 24) :
    (if raw.getLsbD 23 then raw.setWidth 32 ||| 0xFF000000#32 else raw.setWidth 32) = raw.signExtend 32 := by
  have hones : ∀ k : Fin 32, (0xFF000000#32).getLsbD k = decide (24 ≤ k.val) := by decide
  refine BitVec.eq_of_getLsbD_eq fun k hk => ?_
  have hone : (0xFF000000#32).getLsbD k = decide (24 ≤ k) := hones ⟨k, hk⟩
  rw [apply_ite (BitVec.getLsbD · k), BitVec.getLsbD_or, BitVec.getLsbD_setWidth, hone, BitVec.getLsbD_signExtend,
    BitVec.msb_eq_getLsbD_last]
  by_cases hlow : k < 24
  · simp only [hlow, hlow.not_ge, decide_false, Bool.or_false, ite_self, if_true]
  · have hout : raw.getLsbD k = false := BitVec.getLsbD_of_ge raw k (not_lt.1 hlow)
    simp only [hlow, hk, hout, not_lt.1 hlow, decide_true, Bool.and_false, Bool.or_true, Bool.true_and, if_false]
    cases raw.getLsbD 23 <;> rfl

/-- What is shifted out is the raw value over 32, rounded down (R500). -/
theorem tcUnits_eq_div (raw : BitVec 24) : tcUnits raw = raw.toInt / 32 := by
  rw [tcUnits, signExtend_eq_or_top_byte, BitVec.toInt_sshiftRight, BitVec.toInt_signExtend_of_le (by omega),
    Int.shiftRight_eq_div_pow]
  rfl

/-- So is the 19-bit field read as two's complement (R502). -/
theorem tcField_toInt (raw : BitVec 24) : (raw.extractLsb' 5 19).toInt = raw.toInt / 32 := by
  have hlt := raw.isLt
  simp only [BitVec.toInt_eq_toNat_cond, BitVec.extractLsb'_toNat, Nat.shiftRight_eq_div_pow]
  split <;> split <;> omega

theorem natAbs_toInt_lt {w : Nat} (x : BitVec w) (hw : w ≤ 24) : x.toInt.natAbs < 2 ^ 24 := by
  have hlow := x.le_toInt
  have hhigh := x.toInt_lt
  have hpow : (2 : Int) ^ (w - 1) ≤ 2 ^ 23 := pow_le_pow_right₀ (by omega) (by omega)
  omega

/-- Settles O49: the units are the 19-bit field, and `toF32` is exact on them. -/
theorem decodeTcIsExact : Obligations.DecodeTcIsExact := by
  intro raw
  have hlt : (raw.extractLsb' 5 19).toInt.natAbs < 2 ^ 24 := natAbs_toInt_lt _ (by omega)
  rw [decodeTc, tcUnits_eq_div, ← tcField_toInt]
  refine ⟨toF32_finite hlt (by omega), ?_, ?_, fun hzero => ?_⟩
  · rw [toF32_value hlt (by omega)]; norm_num
  · rw [tcField_toInt]; exact (Rat.floor_intCast_div_natCast raw.toInt 32).symm
  · rw [hzero]; rfl

/-- Settles O50: `toF32` is exact on a 16-bit integer. -/
theorem decodeCjIsExact : Obligations.DecodeCjIsExact := by
  intro raw
  have hlt : raw.toInt.natAbs < 2 ^ 24 := natAbs_toInt_lt raw (by omega)
  refine ⟨toF32_finite hlt (by omega), ?_, fun hzero => ?_⟩
  · rw [decodeCj, toF32_value hlt (by omega)]; norm_num
  · rw [hzero]; rfl

end Sys2Proof.Machine
end

section
/-! PROOFS. The thermocouple threshold encoder (41_decoders.md R550, R551): what `trunc16` is of the value a pattern
denotes, and where it fits 16 bits. -/

namespace Sys2Proof.Machine

/-- The magnitude of the value a finite pattern denotes. -/
def f32Magnitude (x : F32) : ℚ := (f32Scaled x : ℚ) / 2 ^ 150

theorem f32Magnitude_nonneg (x : F32) : 0 ≤ f32Magnitude x := by
  unfold f32Magnitude; positivity

theorem f32Value_eq_magnitude (x : F32) :
    f32Value x = if f32Negative x then -f32Magnitude x else f32Magnitude x := by
  rw [f32Value, f32Magnitude]
  cases f32Negative x <;> simp [neg_div]

theorem trunc16_eq_floor (x : F32) :
    trunc16 x = if f32Negative x then -⌊16 * f32Magnitude x⌋ else ⌊16 * f32Magnitude x⌋ := by
  have hfloor : ⌊16 * f32Magnitude x⌋ = ((f32Scaled x / 2 ^ 146 : Nat) : Int) := by
    have hdiv : 16 * f32Magnitude x = (f32Scaled x : ℚ) / ((2 ^ 146 : Nat) : ℚ) := by
      rw [f32Magnitude]; push_cast; ring
    rw [hdiv, Rat.floor_natCast_div_natCast]
    rfl
  rw [trunc16, hfloor]

/-- R550: `trunc16` rounds 16 times the value toward zero. Negative zero has the sign bit but not the sign. -/
theorem trunc16_eq (x : F32) :
    trunc16 x = if f32Value x < 0 then ⌈16 * f32Value x⌉ else ⌊16 * f32Value x⌋ := by
  have hnonneg := f32Magnitude_nonneg x
  rw [trunc16_eq_floor, f32Value_eq_magnitude]
  cases f32Negative x with
  | false => simp [hnonneg.not_gt]
  | true =>
    rcases hnonneg.eq_or_lt with hzero | hpos
    · simp [← hzero]
    · simp [hpos, Int.ceil_neg]

/-- Rounding toward zero brings exactly the values above -2048.0625 to -32768 or more. -/
theorem le_trunc16_iff (x : F32) : -32768 ≤ trunc16 x ↔ -2048 - 1 / 16 < f32Value x := by
  rw [trunc16_eq]
  split
  case isTrue hneg =>
    rw [Int.le_ceil_iff]
    push_cast
    constructor <;> intro h <;> linarith
  case isFalse hnonneg =>
    have hfloor : 0 ≤ ⌊16 * f32Value x⌋ := Int.floor_nonneg.2 (by linarith)
    exact iff_of_true (by omega) (by linarith)

/-- And exactly the values below 2048 to 32767 or less. -/
theorem trunc16_le_iff (x : F32) : trunc16 x ≤ 32767 ↔ f32Value x < 2048 := by
  rw [trunc16_eq]
  split
  case isTrue hneg =>
    have hceil : ⌈16 * f32Value x⌉ ≤ 0 := Int.ceil_nonpos.2 (by linarith)
    exact iff_of_true (by omega) (by linarith)
  case isFalse hnonneg =>
    rw [Int.floor_le_iff]
    push_cast
    constructor <;> intro h <;> linarith

/-- The encoder accepts a finite pattern whose truncation fits 16 bits, and stores that. -/
theorem encodeTcThreshold_eq_some (x : F32) (p : BitVec 16) :
    encodeTcThreshold x = some p ↔
      (f32Finite x = true ∧ -32768 ≤ trunc16 x ∧ trunc16 x ≤ 32767) ∧ BitVec.ofInt 16 (trunc16 x) = p := by
  simp [encodeTcThreshold, and_assoc]

/-- Settles O51, from `trunc16` as a rounding and the two ends of the range it brings into 16 bits. -/
theorem tcThresholdTruncatesTowardZero : Obligations.TcThresholdTruncatesTowardZero := by
  intro x
  refine ⟨?_, fun p hp => ?_⟩
  · rw [← le_trunc16_iff, ← trunc16_le_iff]
    simp only [Option.isSome_iff_exists, encodeTcThreshold_eq_some, exists_and_left, exists_eq', and_true]
  · obtain ⟨⟨-, hlow, hhigh⟩, rfl⟩ := (encodeTcThreshold_eq_some x p).1 hp
    rw [← trunc16_eq]
    exact BitVec.toInt_ofInt_eq_self (by omega) hlow (by omega)

end Sys2Proof.Machine
end

section
/-! PROOFS. Frames exchanged one after the other: what they leave as it was, and what a register holds after them
(40_register_access.md R420, 20_memory.md R222). -/

namespace Sys2Proof.Machine

/-! ### Several frames -/

theorem State.sent_nil (s : State) : s.sent [] = s := rfl

theorem State.sent_cons (f : List Byte × List Byte) (frames : List (List Byte × List Byte)) (s : State) :
    s.sent (f :: frames) = (s.exchanged f.1 f.2).sent frames := rfl

theorem State.sent_append (before after : List (List Byte × List Byte)) (s : State) :
    s.sent (before ++ after) = (s.sent before).sent after := List.foldl_append

/-- What every exchange leaves, several leave. -/
theorem State.sent_keeps {α : Type} {p : State → α} (h : ∀ out received s, p (s.exchanged out received) = p s)
    (frames : List (List Byte × List Byte)) (s : State) : p (s.sent frames) = p s := by
  induction frames generalizing s with
  | nil => rfl
  | cons f frames ih => rw [State.sent_cons, ih, h]

@[simp] theorem State.sent_mode (frames : List (List Byte × List Byte)) (s : State) : (s.sent frames).mode = s.mode :=
  State.sent_keeps State.exchanged_mode frames s
@[simp] theorem State.sent_begun (frames : List (List Byte × List Byte)) (s : State) :
    (s.sent frames).begun = s.begun := State.sent_keeps State.exchanged_begun frames s
@[simp] theorem State.sent_fault (frames : List (List Byte × List Byte)) (s : State) :
    (s.sent frames).fault = s.fault := State.sent_keeps State.exchanged_fault frames s
@[simp] theorem State.sent_cfg (frames : List (List Byte × List Byte)) (s : State) : (s.sent frames).cfg = s.cfg :=
  State.sent_keeps State.exchanged_cfg frames s
@[simp] theorem State.sent_inputs (frames : List (List Byte × List Byte)) (s : State) :
    (s.sent frames).inputs = s.inputs := State.sent_keeps State.exchanged_inputs frames s
@[simp] theorem State.sent_script (frames : List (List Byte × List Byte)) (s : State) :
    (s.sent frames).script = s.script := State.sent_keeps State.exchanged_script frames s

@[simp] theorem State.sent_drawn (frames : List (List Byte × List Byte)) (s : State) :
    (s.sent frames).drawn = s.drawn + frames.length := by
  induction frames generalizing s with
  | nil => rfl
  | cons f frames ih => rw [State.sent_cons, ih, State.exchanged_drawn, List.length_cons]; omega

@[simp] theorem State.sent_wire (frames : List (List Byte × List Byte)) (s : State) :
    (s.sent frames).wire = s.wire ++ frames.map fun f => .exchanged f.1 f.2 := by
  induction frames generalizing s with
  | nil => simp [State.sent_nil]
  | cons f frames ih => simp [State.sent_cons, ih]

/-- Each frame takes one answer. -/
@[simp] theorem State.drawAt_sent (frames : List (List Byte × List Byte)) (s : State) (k : Nat) :
    (s.sent frames).drawAt k = s.drawAt (frames.length + k) :=
  State.drawAt_of_eq (State.sent_script frames s) (State.sent_drawn frames s) k

@[simp] theorem State.drawAt_opened (s : State) (k : Nat) : s.opened.drawAt k = s.drawAt (1 + k) :=
  State.drawAt_of_eq (State.opened_script s) (State.opened_drawn s) k

/-- A transport that answers frames of these lengths does so from wherever its answers have been drawn up to. -/
theorem State.answersFrom_of_drawAt {s u : State} {j : Nat} (h : ∀ k, u.drawAt k = s.drawAt (j + k)) (k : Nat)
    (lengths : List Nat) : u.answersFrom k lengths = s.answersFrom (j + k) lengths := by
  induction lengths generalizing k with
  | nil => rfl
  | cons n rest ih => rw [State.answersFrom, State.answersFrom, h, ih, Nat.add_assoc]

theorem State.answersFrom_append (s : State) (k : Nat) (before after : List Nat) :
    s.answersFrom k (before ++ after) = (s.answersFrom k before && s.answersFrom (k + before.length) after) := by
  induction before generalizing k with
  | nil => rfl
  | cons n before ih =>
    rw [List.cons_append, State.answersFrom, ih, State.answersFrom, Bool.and_assoc, List.length_cons,
      Nat.add_right_comm, Nat.add_assoc]

/-- Frames work on the chip alone: the sequencer, the outcome and the wire they began with change nothing else. -/
theorem State.sent_control (s : State) (q : Seq) (o : Option CommandOutcome) (w : List Event)
    (frames : List (List Byte × List Byte)) :
    ∃ q' w', ({ s with seq := q, outcome := o, wire := w } : State).sent frames =
      { s.sent frames with seq := q', outcome := o, wire := w' } := by
  induction frames generalizing s q w with
  | nil => exact ⟨q, w, rfl⟩
  | cons f frames ih =>
    rw [State.sent_cons, State.exchanged_control]
    exact ih _ _ _

theorem State.sent_regs_control (s : State) (q : Seq) (o : Option CommandOutcome) (w : List Event)
    (frames : List (List Byte × List Byte)) :
    (({ s with seq := q, outcome := o, wire := w } : State).sent frames).regs = (s.sent frames).regs := by
  obtain ⟨q', w', h⟩ := State.sent_control s q o w frames
  rw [h]

theorem State.sent_conv_control (s : State) (q : Seq) (o : Option CommandOutcome) (w : List Event)
    (frames : List (List Byte × List Byte)) :
    (({ s with seq := q, outcome := o, wire := w } : State).sent frames).conv = (s.sent frames).conv := by
  obtain ⟨q', w', h⟩ := State.sent_control s q o w frames
  rw [h]

/-! ### Registers after frames -/

/-- The moves of a chip that is not reset leave every register but CR0 and the chip's own (10_state.md R141, R150). -/
theorem State.moved_reg_of_noReset {s : State} (hc : s.cfg.wellFormed = true) (hd : noReset s.draw = true) {r : Reg}
    (hr : r ∉ .cr0 :: chipOwned) : s.moved.reg r = s.reg r := by
  obtain ⟨h0, hown⟩ := not_or.1 (List.mem_cons.not.1 hr)
  exact State.moved_read_of_noReset hd (chipOwns_regAddr hc hown) fun he => h0 ((regAddr_inj hc).1 he)

theorem regByte_masked_lt (c : Config) (r : Reg) : (regByte c r &&& 0x7F#8).toNat < 16 := by
  rw [regByte_masked]
  exact regByte_lt c r

/-- A frame writes no byte to this register. -/
def Spares (c : Config) (r : Reg) (out : List Byte) : Prop :=
  ∀ ab d, out = [ab, d] → writtenReg ab ≠ some (regAddr c r)

theorem spares_read (c : Config) (r r' : Reg) (data : List Byte) : Spares c r (regByte c r' :: data) := by
  rintro ab d ⟨⟩
  rw [← regByte_masked, writtenReg_read]
  nofun

theorem spares_write {c : Config} (hc : c.wellFormed = true) {r r' : Reg} (h : r' ≠ r) (v : Byte) :
    Spares c r [regByte c r' ||| 0x80#8, v] := by
  rintro ab d ⟨⟩
  rw [writtenReg_write (regByte_masked_lt c r'), regByte_masked, regByte_toNat]
  exact fun he => h ((regAddr_inj hc).1 (Option.some.inj he))

theorem State.exchanged_reg_of_spares {s : State} {r : Reg} {out : List Byte} (h : Spares s.cfg r out)
    (received : List Byte) : (s.exchanged out received).reg r = s.moved.reg r := by
  rw [State.reg, State.reg, State.exchanged_cfg, State.exchanged_regs]
  unfold State.stored
  split
  · rename_i ab d
    split
    · rename_i a ha
      exact Mem.read_write_other _ _ (fun he => h ab d rfl (ha.trans (congrArg some he.symm))) _
    · rfl
  · rfl

theorem State.exchanged_reg_of_write {s : State} {r : Reg} (hc : s.cfg.wellFormed = true) (hr : r ∉ chipOwned)
    (v : Byte) (received : List Byte) : (s.exchanged [regByte s.cfg r ||| 0x80#8, v] received).reg r = v := by
  have hregs := State.exchanged_write_reg hc hr v received
  rw [writeFrame] at hregs
  rw [State.reg, State.exchanged_cfg, hregs, Mem.read_write_same]

/-- Frames that write no byte to a register leave it, where the chip is not reset meanwhile. -/
theorem State.sent_reg_of_spares {s : State} {r : Reg} (hc : s.cfg.wellFormed = true) (hr : r ∉ .cr0 :: chipOwned)
    {frames : List (List Byte × List Byte)} (h : ∀ f ∈ frames, Spares s.cfg r f.1)
    (hd : ∀ k < frames.length, noReset (s.drawAt k) = true) : (s.sent frames).reg r = s.reg r := by
  induction frames generalizing s with
  | nil => rfl
  | cons f frames ih =>
    obtain ⟨hf, hrest⟩ := List.forall_mem_cons.1 h
    have hstep : (s.exchanged f.1 f.2).reg r = s.reg r :=
      (State.exchanged_reg_of_spares hf f.2).trans (State.moved_reg_of_noReset hc (hd 0 (by simp)) hr)
    rw [State.sent_cons, ← hstep]
    refine ih (by simpa using hc) (by simpa using hrest) fun k hk => ?_
    rw [State.drawAt_exchanged]
    exact hd (k + 1) (by simpa using hk)

/-- The register the last frame wrote holds its byte. -/
theorem State.sent_reg_of_last {s : State} {r : Reg} (hc : s.cfg.wellFormed = true) (hr : r ∉ chipOwned)
    (before : List (List Byte × List Byte)) (v : Byte) (received : List Byte) :
    (s.sent (before ++ [([regByte s.cfg r ||| 0x80#8, v], received)])).reg r = v := by
  rw [State.sent_append, ← State.sent_cfg before s]
  exact State.exchanged_reg_of_write (by rwa [State.sent_cfg]) hr v received

/-- So does one an earlier frame wrote, where no later one writes it and the chip is not reset after its frame. -/
theorem State.sent_reg_of_write {s : State} {r : Reg} (hc : s.cfg.wellFormed = true) (hr : r ∉ .cr0 :: chipOwned)
    {v : Byte} {received : List Byte} {frames before after : List (List Byte × List Byte)}
    (hsplit : frames = before ++ ([regByte s.cfg r ||| 0x80#8, v], received) :: after)
    (hafter : ∀ f ∈ after, Spares s.cfg r f.1)
    (hd : ∀ k, before.length < k → k < frames.length → noReset (s.drawAt k) = true) : (s.sent frames).reg r = v := by
  subst hsplit
  rw [List.append_cons, State.sent_append, State.sent_reg_of_spares (by rwa [State.sent_cfg]) hr]
  · exact State.sent_reg_of_last hc (fun hown => hr (List.mem_cons_of_mem _ hown)) before v received
  · rwa [State.sent_cfg]
  · intro k hk
    rw [State.drawAt_sent]
    exact hd _ (by simp; omega) (by simp; omega)

/-- A last frame that wrote CR0 acted on the conversion as the frames before it and the chip's own move left it. -/
theorem State.sent_conv_of_last (s : State) (before : List (List Byte × List Byte)) (v : Byte) (received : List Byte) :
    (s.sent (before ++ [([regByte s.cfg .cr0 ||| 0x80#8, v], received)])).conv =
      convAfterWrite (s.sent before).cfg (s.sent before).moved.conv v (s.sent before).draw := by
  rw [State.sent_append, ← State.sent_cfg before s]
  exact State.exchanged_cr0_conv (regByte_masked_lt _ _) (by rw [regByte_masked, regByte_toNat]) v received

end Sys2Proof.Machine
end

section
/-! PROOFS. Host commands whose frames are all answered (42_init_and_config.md): a command's body is a list of frames
and a result, and what follows for the state it ends in is said once. -/

namespace Sys2Proof.Machine

/-! ### A piece of a command as its frames -/

/-- A write of a named register that is answered is one frame, and the answers for what follows are still to come. -/
theorem memWrite_sent (r : Reg) (v : Byte) {s : State} {rest : List Nat} (h : s.answersFrom 0 (2 :: rest) = true) :
    ∃ received, memWrite r v s = .done () (s.sent [([regByte s.cfg r ||| 0x80#8, v], received)]) ∧
      (s.sent [([regByte s.cfg r ||| 0x80#8, v], received)]).answersFrom 0 rest = true := by
  obtain ⟨hfirst, hrest⟩ := State.answersFrom_cons h
  obtain ⟨c0, c1, hrun⟩ := memWrite_of_answers (r := r) (v := v) hfirst
  exact ⟨[c0, c1], hrun, (State.answersFrom_of_drawAt (State.drawAt_sent _ s) 0 rest).trans hrest⟩

/-- The two frames of a read-modify-write of a named register, with what they received (40_register_access.md R430). -/
def rmwFrames (c : Config) (r : Reg) (m x : Byte) (read : Byte × Byte) (received : List Byte) :
    List (List Byte × List Byte) :=
  [([regByte c r, c.dummy], [read.1, read.2]), ([regByte c r ||| 0x80#8, merge read.2 m x], received)]

/-- An answered read-modify-write is its two frames. -/
theorem rmwReg_sent (r : Reg) (m x : Byte) {s : State} {rest : List Nat}
    (h : s.answersFrom 0 (2 :: 2 :: rest) = true) :
    ∃ read received, s.reply [regByte s.cfg r, s.cfg.dummy] = some [read.1, read.2] ∧
      received.length = 2 ∧
      rmwReg r m x s = .done () (s.sent (rmwFrames s.cfg r m x read received)) ∧
      (s.sent (rmwFrames s.cfg r m x read received)).answersFrom 0 rest = true := by
  obtain ⟨hfirst, hrest⟩ := Bool.and_eq_true_iff.1 ((State.answersFrom_append s 0 [2, 2] rest).symm.trans h)
  obtain ⟨b, v, c0, c1, hreply, hrun⟩ := rmwReg_of_answers (r := r) (m := m) (x := x) hfirst
  exact ⟨(b, v), [c0, c1], hreply, rfl, hrun,
    (State.answersFrom_of_drawAt (State.drawAt_sent _ s) 0 rest).trans hrest⟩

/-! ### How such a command ends -/

/-- `t` is where a command that sent these frames and delivered `r` leaves `s`, control fields kept. -/
structure EndsSending (frames : List (List Byte × List Byte)) (r : Result) (s t : State) : Prop where
  delivered : Delivered s t r
  control : SameControl s t
  wire : t.wire = s.wire ++ frames.map fun f => .exchanged f.1 f.2
  regs : t.regs = (s.sent frames).regs
  conv : t.conv = (s.sent frames).conv

theorem EndsSending.reg {frames : List (List Byte × List Byte)} {r : Result} {s t : State}
    (h : EndsSending frames r s t) (x : Reg) : t.reg x = (s.sent frames).reg x := by
  obtain ⟨-, -, -, hcfg, -, -⟩ := h.delivered
  rw [State.reg, State.reg, hcfg, h.regs, State.sent_cfg]

theorem Operational.ready {s : State} (h : Operational s) : Ready s := ⟨h.1, h.2.1⟩

theorem Operational.begun {s : State} (h : Operational s) : s.begun = true := h.2.2

@[simp] theorem draw_accept (i : Instr) (s : State) : (accept i s).draw = s.draw := rfl

/-- A host command whose body is these frames and a result ends so. -/
theorem exec_of_sent {i : Instr} {s : State} {r : Result} {frames : List (List Byte × List Byte)} (hs : Operational s)
    (hm : i ≠ .setmode 3) (h : body i (accept i s) = .done r ((accept i s).sent frames)) :
    ∃ t, exec i s = .next t ∧ EndsSending frames r s t :=
  ⟨_, exec_of_done hs.ready (guardFault_begun hs.begun hm) h, {
    delivered := by simp [Delivered, hs.ready.1]
    control := by simp [SameControl]
    wire := by simp
    regs := State.sent_regs_control s _ none s.wire frames
    conv := State.sent_conv_control s _ none s.wire frames }⟩

/-- A command that is one read of a named register: one exchange, the chip left as its own move left it. -/
theorem exec_of_memRead {i : Instr} {s : State} {r : Reg} {n : Nat} {value : List Byte → Result}
    {received : List Byte} (hs : Operational s) (hm : i ≠ .setmode 3)
    (hbody : body i (accept i s) = (memRead r n (accept i s)).andThen fun data u => .done (value data) u)
    (hn : ReadLegal (regByte s.cfg r) n)
    (hreply : s.reply (regByte s.cfg r :: List.replicate n s.cfg.dummy) = some received) :
    ∃ t, exec i s = .next t ∧ Delivered s t (value (received.drop 1)) ∧ SameControl s t ∧
      t.wire = s.wire ++ [.exchanged (regByte s.cfg r :: List.replicate n s.cfg.dummy) received] ∧
      t.regs = s.moved.regs := by
  have hframe : readFrame s.cfg (regByte s.cfg r) n = regByte s.cfg r :: List.replicate n s.cfg.dummy := by
    rw [readFrame, regByte_masked]
  have hread := readReg_of_reply (s := accept i s) hn (hframe ▸ hreply)
  rw [accept_cfg, hframe] at hread
  obtain ⟨t, hexec, hend⟩ := exec_of_sent (r := value (received.drop 1))
    (frames := [(regByte s.cfg r :: List.replicate n s.cfg.dummy, received)]) hs hm
    (by rw [hbody, memRead, accept_cfg, hread]; rfl)
  refine ⟨t, hexec, hend.delivered, hend.control, hend.wire, hend.regs.trans ?_⟩
  exact State.exchanged_read_regs (by rw [← regByte_masked, writtenReg_read]) _ received

theorem readLegal_regByte (c : Config) (r : Reg) : ReadLegal (regByte c r) 1 :=
  readLegal_one (Nat.le_of_lt_succ (regByte_masked_lt c r))

/-- A command that is one read-modify-write of a named register. -/
theorem exec_of_rmwReg {i : Instr} {s : State} {r : Reg} {m x : Byte} (hs : Operational s) (hm : i ≠ .setmode 3)
    (hbody : body i (accept i s) = (rmwReg r m x (accept i s)).andThen fun _ u => .done .unit u)
    (hc : s.cfg.wellFormed = true) (hr : r ∉ chipOwned) (hanswers : s.answersFrom 0 [2, 2] = true) :
    ∃ t u v, exec i s = .next t ∧ Delivered s t .unit ∧ SameControl s t ∧
      RmwFrames s u t (regByte s.cfg r) m x v ∧ t.reg r = merge v m x ∧
      (r ≠ .cr0 → t.conv = u.moved.conv) ∧ (r = .cr0 → ActsOnConversion u t (merge v m x)) := by
  obtain ⟨⟨b, v⟩, received, hreply, hlen, hrun, -⟩ := rmwReg_sent r m x (s := accept i s) (rest := [])
    (by rwa [State.answersFrom_accept])
  obtain ⟨c0, c1, rfl⟩ := List.length_eq_two.1 hlen
  obtain ⟨t, hexec, hend⟩ := exec_of_sent (r := .unit) hs hm (by rw [hbody, hrun, Run.andThen_done, accept_cfg])
  refine ⟨t, s.exchanged [regByte s.cfg r, s.cfg.dummy] [b, v], v, hexec, hend.delivered, hend.control,
    ⟨b, c0, c1, hreply, rfl, hend.wire⟩, (hend.reg r).trans ?_, fun h0 => hend.conv.trans ?_, fun h0 => ?_⟩
  · exact State.sent_reg_of_last hc hr [_] (merge v m x) [c0, c1]
  · have hne : (regByte s.cfg r &&& 0x7F#8).toNat ≠
        regAddr (s.exchanged [regByte s.cfg r, s.cfg.dummy] [b, v]).cfg .cr0 := by
      rw [State.exchanged_cfg]
      exact regByte_ne_cr0 hc h0
    exact State.exchanged_write_conv (regByte_masked_lt s.cfg r) hne (merge v m x) [c0, c1]
  · subst h0
    exact actsOnConversion_of_conv (hend.conv.trans (State.sent_conv_of_last s [_] (merge v m x) [c0, c1]))

end Sys2Proof.Machine
end

section
/-! PROOFS. Configuration and the direct reads (42_init_and_config.md R610 to R670). -/

namespace Sys2Proof.Machine

/-! ### The direct reads -/

theorem lowNibble_eq_extract (v : Byte) : decodeType ((v &&& tcTypeMask).setWidth 4) = v.extractLsb' 0 4 := by
  revert v; decide

/-- Settles O29: one read of CR1, its low nibble delivered. -/
theorem gettctypeReturnsLowNibble : Obligations.GettctypeReturnsLowNibble := by
  intro s b0 v hs hreply
  have hend := exec_of_memRead (i := .gettctype) hs (by simp) rfl (readLegal_regByte s.cfg .cr1) hreply
  rwa [List.drop_one, List.tail_cons, u8_singleton, lowNibble_eq_extract] at hend

/-- Settles O35: one read of SR, its byte delivered. -/
theorem readfaultReturnsStatus : Obligations.ReadfaultReturnsStatus := by
  intro s b0 v hs hreply
  have hend := exec_of_memRead (i := .readfault) hs (by simp) rfl (readLegal_regByte s.cfg .sr) hreply
  rwa [List.drop_one, List.tail_cons, u8_singleton] at hend

/-- CJTH is not the last register, since CJTL follows it (20_memory.md R210). -/
theorem readLegal_cjth {c : Config} (hc : c.wellFormed = true) : ReadLegal (regByte c .cjth) 2 := by
  obtain ⟨hnext, -, -⟩ := Config.wellFormed_pairs hc
  have hlt := regAddr_lt c .cjtl
  exact ⟨by decide, by decide, by rw [regByte_masked, regByte_toNat]; omega⟩

/-- Settles O36: one read of two bytes, whatever the mode, and their decoded value. -/
theorem readcjReturnsDecodedValue : Obligations.ReadcjReturnsDecodedValue := by
  intro s b0 b1 b2 hs hc hreply
  have hend := exec_of_memRead (i := .readcj) hs (by simp) rfl (readLegal_cjth hc) hreply
  rwa [List.drop_one, List.tail_cons, u16_eq_append] at hend

/-! ### SETTCTYPE and SETNF -/

theorem encodeType_eq_lowNibble (t : Byte) : (encodeType t).setWidth 8 = t &&& 0x0F#8 := by
  revert t; decide

theorem merge_tcTypeMask (v x : Byte) : merge v tcTypeMask x = (v &&& 0xF0#8) ||| (x &&& 0x0F#8) := rfl

/-- Settles O28: a read-modify-write of CR1, which is not CR0, owning the low nibble. -/
theorem settctypeWritesLowNibble : Obligations.SettctypeWritesLowNibble := by
  intro s t8 hs hc hanswers
  obtain ⟨t, u, v, hexec, hdelivered, hcontrol, hframes, hreg, hconv, -⟩ :=
    exec_of_rmwReg (i := .settctype t8) hs (by simp) rfl hc (by decide) hanswers
  rw [encodeType_eq_lowNibble] at hframes hreg
  rw [merge_tcTypeMask, BitVec.and_assoc, BitVec.and_self] at hreg
  exact ⟨t, u, v, hexec, hdelivered, hcontrol, hframes, hreg, hconv (by decide)⟩

/-- A write acts on the conversion by its CMODE and 1SHOT alone (10_state.md R140). -/
theorem ActsOnConversion.congr {u t : State} {v w : Byte} (h : ActsOnConversion u t v)
    (hcmode : cmodeSet u.cfg v = cmodeSet u.cfg w) (honeShot : oneShotSet u.cfg v = oneShotSet u.cfg w) :
    ActsOnConversion u t w := by
  obtain ⟨hstarts, hgoesOn, hopen⟩ := h
  simp only [isTrigger, restConv, hcmode, honeShot] at hstarts hgoesOn hopen
  exact ⟨hstarts, hgoesOn, hopen⟩

theorem oneShotSet_nfMask {c : Config} (hc : c.wellFormed = true) : oneShotSet c nfMask = false := by
  have hbit : nfMask = bitMask 0 := rfl
  obtain ⟨-, -, -, -, honeShot, -⟩ := Config.wellFormed_bits hc
  rw [oneShotSet_eq_getLsbD, hbit, bitMask_getLsbD]
  exact decide_eq_false honeShot

theorem merge_nfMask_high (v x : Byte) : (merge v nfMask x).extractLsb' 1 7 = v.extractLsb' 1 7 := by
  have hkept : (~~~nfMask).extractLsb' 1 7 = BitVec.allOnes 7 := rfl
  have hfree : nfMask.extractLsb' 1 7 = 0#7 := rfl
  rw [merge, BitVec.extractLsb'_or, BitVec.extractLsb'_and, BitVec.extractLsb'_and, hkept, hfree, BitVec.and_allOnes,
    BitVec.and_zero, BitVec.or_zero]

theorem merge_nfMask_low (v : Byte) (x : BitVec 1) :
    (merge v nfMask (x.setWidth 8)).extractLsb' 0 1 = x := by
  have hfree : (~~~nfMask).extractLsb' 0 1 = 0#1 := rfl
  have hkept : nfMask.extractLsb' 0 1 = BitVec.allOnes 1 := rfl
  have hlow : (x.setWidth 8).extractLsb' 0 1 = x := by revert x; decide
  rw [merge, BitVec.extractLsb'_or, BitVec.extractLsb'_and, BitVec.extractLsb'_and, hkept, hfree, BitVec.and_zero,
    BitVec.zero_or, BitVec.and_allOnes, hlow]

/-- 50 Hz selects the parameter's bit, 60 Hz the other one (41_decoders.md R580). -/
theorem nf_eq_iff (n f : BitVec 1) : (if f = 0 then n else 1 - n) = n ↔ f = 0 := by
  revert n f; decide

/-- Settles O31: a read-modify-write of CR0 owning bit 0, which is neither CMODE nor 1SHOT. -/
theorem setnfWritesBitZero : Obligations.SetnfWritesBitZero := by
  intro s f hs hc hanswers
  obtain ⟨t, u, v, hexec, hdelivered, hcontrol, hframes, hreg, -, hacts⟩ :=
    exec_of_rmwReg (i := .setnf f) hs (by simp) rfl hc (by decide) hanswers
  have hcfg : u.cfg = s.cfg := by
    obtain ⟨_, _, _, -, rfl, -⟩ := hframes
    exact State.exchanged_cfg ..
  refine ⟨t, u, v, hexec, hdelivered, hcontrol, hframes, ?_, ?_, (hacts rfl).congr ?_ ?_⟩
  · rw [hreg, merge_nfMask_high]
  · rw [hreg, accept_cfg, nfBit, merge_nfMask_low]
    exact nf_eq_iff s.cfg.nf50HzBit f
  · rw [hcfg, cmodeSet_merge, cmodeSet_nfMask hc, if_neg Bool.false_ne_true]
  · rw [hcfg, oneShotSet_merge, oneShotSet_nfMask hc, if_neg Bool.false_ne_true]

/-! ### The thresholds -/

/-- Settles O32: two write frames; nothing follows CJHF's, and only CJHF's follows CJLF's. -/
theorem setcjthrWritesBothThresholds : Obligations.SetcjthrWritesBothThresholds := by
  intro s low high hs hc hanswers
  rw [← State.answersFrom_accept (.setcjthr low high)] at hanswers
  obtain ⟨r1, hlow, hanswers⟩ := memWrite_sent .cjlf low hanswers
  obtain ⟨r2, hhigh, -⟩ := memWrite_sent .cjhf high hanswers
  rw [State.sent_cfg] at hhigh
  obtain ⟨t, hexec, hend⟩ := exec_of_sent (i := .setcjthr low high) (r := .unit)
    (frames := [([regByte s.cfg .cjlf ||| 0x80#8, low], r1), ([regByte s.cfg .cjhf ||| 0x80#8, high], r2)]) hs (by simp)
    (by simp only [body, encodeCjThreshold, hlow, hhigh, Run.andThen_done]; rfl)
  refine ⟨t, r1, r2, hexec, hend.delivered, hend.control, hend.wire, (hend.reg _).trans ?_,
    fun hd => (hend.reg _).trans ?_⟩
  · exact State.sent_reg_of_last hc (by decide) [_] high r2
  · refine State.sent_reg_of_write hc (by decide) (before := []) rfl (by simp [spares_write hc]) fun k hpos hlt => ?_
    obtain rfl : k = 1 := Nat.le_antisymm (Nat.le_of_lt_succ hlt) hpos
    exact hd

/-- Settles O33: four write frames to four registers. -/
theorem settcthrWritesFourBytes : Obligations.SettcthrWritesFourBytes := by
  intro s flow fhigh lo hi hs hc hlo hhi hanswers
  rw [← State.answersFrom_accept (.settcthr flow fhigh)] at hanswers
  obtain ⟨r1, h1, hanswers⟩ := memWrite_sent .lthfth (hi.extractLsb' 8 8) hanswers
  obtain ⟨r2, h2, hanswers⟩ := memWrite_sent .lthftl (hi.extractLsb' 0 8) hanswers
  obtain ⟨r3, h3, hanswers⟩ := memWrite_sent .ltlfth (lo.extractLsb' 8 8) hanswers
  obtain ⟨r4, h4, -⟩ := memWrite_sent .ltlftl (lo.extractLsb' 0 8) hanswers
  simp only [State.sent_cfg] at h1 h2 h3 h4
  obtain ⟨t, hexec, hend⟩ := exec_of_sent (i := .settcthr flow fhigh) (r := .unit)
    (frames := [([regByte s.cfg .lthfth ||| 0x80#8, hi.extractLsb' 8 8], r1),
      ([regByte s.cfg .lthftl ||| 0x80#8, hi.extractLsb' 0 8], r2),
      ([regByte s.cfg .ltlfth ||| 0x80#8, lo.extractLsb' 8 8], r3),
      ([regByte s.cfg .ltlftl ||| 0x80#8, lo.extractLsb' 0 8], r4)]) hs (by simp)
    (by simp only [body, hlo, hhi, writeTcThresholds, h1, h2, h3, h4, Run.andThen_done]; rfl)
  refine ⟨t, r1, r2, r3, r4, hexec, hend.delivered, hend.control, hend.wire, fun hd => ?_⟩
  rw [hend.reg, hend.reg, hend.reg, hend.reg]
  refine ⟨(congrArg₂ (· ++ ·) ?_ ?_).trans (extract_append hi), (congrArg₂ (· ++ ·) ?_ ?_).trans (extract_append lo)⟩
  · exact State.sent_reg_of_write hc (by decide) (before := []) rfl (by simp [spares_write hc]) fun k _ => hd k
  · exact State.sent_reg_of_write hc (by decide) (before := [_]) rfl (by simp [spares_write hc]) fun k _ => hd k
  · exact State.sent_reg_of_write hc (by decide) (before := [_, _]) rfl (by simp [spares_write hc]) fun k _ => hd k
  · exact State.sent_reg_of_last hc (by decide) [_, _, _] _ r4

end Sys2Proof.Machine
end

section
/-! PROOFS. BEGIN (42_init_and_config.md R600, R810). -/

namespace Sys2Proof.Machine

/-- Settles O27: BEGIN's body ends at the refused `Open`. -/
theorem beginReportsRefusedOpen : Obligations.BeginReportsRefusedOpen := by
  intro s hs hrefused
  have hrun : body .begin (accept .begin s) = .done (.bool false) ((accept .begin s).opened.setBegun false) := by
    simp [body, beginBody, openTransport, hrefused]
  refine ⟨_, exec_of_done hs (guardFault_begin s) hrun, ?_, ?_, rfl, rfl, ?_⟩
  · simp [Delivered, hs.1]
  · simp [Ready, hs.1]
  · simp [hrefused]

/-- What BEGIN's frames bring back: two bytes for each read, and what is discarded under each write. -/
structure BeginReplies where
  mask : List Byte
  cr0Read : Byte × Byte
  cr0 : List Byte
  cjto : List Byte
  cr1Read : Byte × Byte
  cr1 : List Byte
  modeRead : Byte × Byte
  mode : List Byte

/-- BEGIN's eight frames, in the order of R600. -/
def beginFrames (c : Config) (r : BeginReplies) : List (List Byte × List Byte) :=
  ([regByte c .mask ||| 0x80#8, 0x00], r.mask) ::
  (rmwFrames c .cr0 (ocfault0Mask c) (ocfault0Mask c) r.cr0Read r.cr0 ++
  (([regByte c .cjto ||| 0x80#8, 0x00], r.cjto) ::
  (rmwFrames c .cr1 tcTypeMask (c.tcCode.k.setWidth 8) r.cr1Read r.cr1 ++
  rmwFrames c .cr0 (modeMask c) (oneShotMask c) r.modeRead r.mode)))

/-- BEGIN's body, its frames answered, is `Open`, the frames, and the writes of the mirror and of `begun` (R600). -/
theorem beginBody_sent {s : State} (hgranted : s.draw.granted = true)
    (hanswers : s.answersFrom 1 [2, 2, 2, 2, 2, 2, 2, 2] = true) :
    ∃ r, beginBody s =
      .done (.bool true) (((s.opened.sent (beginFrames s.cfg r)).setMode .oneShot).setBegun true) := by
  have hanswers : s.opened.answersFrom 0 [2, 2, 2, 2, 2, 2, 2, 2] = true :=
    (State.answersFrom_of_drawAt (State.drawAt_opened s) 0 _).trans hanswers
  obtain ⟨r1, h1, hanswers⟩ := memWrite_sent .mask 0x00 hanswers
  obtain ⟨v0, r3, -, -, h2, hanswers⟩ := rmwReg_sent .cr0 (ocfault0Mask s.cfg) (ocfault0Mask s.cfg) hanswers
  obtain ⟨r4, h3, hanswers⟩ := memWrite_sent .cjto 0x00 hanswers
  obtain ⟨v1, r6, -, -, h4, hanswers⟩ := rmwReg_sent .cr1 tcTypeMask (s.cfg.tcCode.k.setWidth 8) hanswers
  obtain ⟨v2, r8, -, -, h5, -⟩ := rmwReg_sent .cr0 (modeMask s.cfg) (oneShotMask s.cfg) hanswers
  refine ⟨⟨r1, v0, r3, r4, v1, r6, v2, r8⟩, ?_⟩
  simp only [State.sent_cfg, State.opened_cfg] at h1 h2 h3 h4 h5
  simp only [beginBody, setTypeBody, setModeBody, openTransport, tcEntry, modeBits, encodeType_setWidth,
    State.sent_cfg, State.opened_cfg, Run.andThen_done, hgranted, if_true, h1, h2, h3, h4, h5]
  rfl

/-- Where such a BEGIN ends: the chip is as `Open` and the frames leave it from `s` itself. -/
theorem exec_begin_sent {s : State} (hs : Ready s) (hgranted : s.draw.granted = true)
    (hanswers : s.answersFrom 1 [2, 2, 2, 2, 2, 2, 2, 2] = true) :
    ∃ r t, exec .begin s = .next t ∧ Delivered s t (.bool true) ∧ t.mode = some .oneShot ∧ t.begun = true ∧
      t.wire = s.wire ++ .opened true :: (beginFrames s.cfg r).map (fun f => .exchanged f.1 f.2) ∧
      (∀ x, t.reg x = (s.opened.sent (beginFrames s.cfg r)).reg x) ∧
      t.conv = (s.opened.sent (beginFrames s.cfg r)).conv := by
  obtain ⟨r, hrun⟩ := beginBody_sent (s := accept .begin s) hgranted (by rwa [State.answersFrom_accept])
  have hregs := State.sent_regs_control s.opened (accept .begin s).opened.seq none s.opened.wire (beginFrames s.cfg r)
  refine ⟨r, _, exec_of_done hs (guardFault_begin s) hrun, ?_, rfl, rfl, ?_, fun x => ?_, ?_⟩
  · simp [Delivered, hs.1]
  · simp [hgranted]
  · have hcfg : ((accept .begin s).opened.sent (beginFrames s.cfg r)).cfg =
        (s.opened.sent (beginFrames s.cfg r)).cfg := by simp
    exact congrArg₂ (fun c m => Mem.read c m (regAddr c x)) hcfg hregs
  · exact State.sent_conv_control s.opened (accept .begin s).opened.seq none s.opened.wire (beginFrames s.cfg r)

theorem merge_self (v m : Byte) : merge v m m = v ||| m := by
  ext k hk
  cases hm : m[k] <;> simp [merge, hm]

theorem lowNibble_setWidth (n : BitVec 4) : n.setWidth 8 &&& 0x0F#8 = n.setWidth 8 := by
  revert n; decide

theorem isTrigger_merge_oneShotMask {c : Config} (hc : c.wellFormed = true) (v : Byte) :
    isTrigger c (merge v (modeMask c) (oneShotMask c)) = true := by
  rw [isTrigger, oneShotSet_merge, if_pos (oneShotSet_modeMask c), oneShotSet_oneShotMask, cmodeSet_merge,
    if_pos (cmodeSet_modeMask c), cmodeSet_oneShotMask hc]
  rfl

/-- The last of the eight frames writes CR0. -/
theorem beginFrames_eq_append (c : Config) (r : BeginReplies) : beginFrames c r = (beginFrames c r).take 7 ++
    [([regByte c .cr0 ||| 0x80#8, merge r.modeRead.2 (modeMask c) (oneShotMask c)], r.mode)] := rfl

section
variable {u : State} (hc : u.cfg.wellFormed = true) (r : BeginReplies)
include hc

theorem sent_beginFrames_cr0 :
    (u.sent (beginFrames u.cfg r)).reg .cr0 = merge r.modeRead.2 (modeMask u.cfg) (oneShotMask u.cfg) := by
  rw [beginFrames_eq_append]
  exact State.sent_reg_of_last hc (by decide) _ _ r.mode

/-- That frame starts a one-shot conversion, if none is pending (10_state.md R140). -/
theorem sent_beginFrames_conv (hnone : (u.sent ((beginFrames u.cfg r).take 7)).moved.conv ≠ .oneShot) :
    (u.sent (beginFrames u.cfg r)).conv = .oneShot := by
  rw [beginFrames_eq_append, State.sent_conv_of_last, convAfterWrite_started hnone, State.sent_cfg,
    isTrigger_merge_oneShotMask hc, if_pos rfl]

/-- MASK, CJTO and CR1 are written once each. -/
theorem sent_beginFrames_regs (hd : ∀ k < 8, noReset (u.drawAt k) = true) :
    (u.sent (beginFrames u.cfg r)).reg .mask = 0x00 ∧ (u.sent (beginFrames u.cfg r)).reg .cjto = 0x00 ∧
      (u.sent (beginFrames u.cfg r)).reg .cr1 = merge r.cr1Read.2 tcTypeMask (u.cfg.tcCode.k.setWidth 8) := by
  refine ⟨?_, ?_, ?_⟩
  · exact State.sent_reg_of_write hc (by decide) (before := []) rfl
      (by simp [rmwFrames, spares_write hc, spares_read]) fun k _ => hd k
  · exact State.sent_reg_of_write hc (by decide) (before := [_, _, _]) rfl
      (by simp [rmwFrames, spares_write hc, spares_read]) fun k _ => hd k
  · exact State.sent_reg_of_write hc (by decide) (before := [_, _, _, _, _]) rfl
      (by simp [rmwFrames, spares_write hc, spares_read]) fun k _ => hd k

end

/-- Settles O26: BEGIN is `Open` and its eight frames, the last of which writes CR0 with 1SHOT and without CMODE. -/
theorem beginInitialises : Obligations.BeginInitialises := by
  intro s hs hc hgranted hanswers
  obtain ⟨r, t, hexec, hdelivered, hmode, hbegun, hwire, hreg, hconv⟩ := exec_begin_sent hs hgranted hanswers
  have hcr0 : merge r.cr0Read.2 (ocfault0Mask s.cfg) (ocfault0Mask s.cfg) = r.cr0Read.2 ||| ocfault0Mask s.cfg :=
    merge_self ..
  have hcr1 : merge r.cr1Read.2 tcTypeMask (s.cfg.tcCode.k.setWidth 8) =
      (r.cr1Read.2 &&& 0xF0#8) ||| s.cfg.tcCode.k.setWidth 8 := by
    rw [merge_tcTypeMask, lowNibble_setWidth]
  refine ⟨t, r.cr0Read.2, r.cr1Read.2, r.modeRead.2, r.mask, r.cr0Read.1, r.cr0, r.cjto, r.cr1Read.1, r.cr1,
    r.modeRead.1, r.mode, ?_⟩
  rw [← hcr0, ← hcr1, hreg, hreg, hreg, hreg, hconv]
  exact ⟨hexec, hdelivered, hmode, hbegun, hwire, sent_beginFrames_cr0 (u := s.opened) hc r,
    sent_beginFrames_conv (u := s.opened) hc r, fun hd => sent_beginFrames_regs (u := s.opened) hc r fun k hk => by
      rw [State.drawAt_opened]
      exact hd _ (by omega)⟩

end Sys2Proof.Machine
end

section
/-! PROOFS. The commands of the conversion mode that do not poll: SETMODE, TRIGGER and CONVDONE
(43_conversion_mode.md R700, R720, R730). -/

namespace Sys2Proof.Machine

/-! ### SETMODE -/

/-- Mode code 3 selects no mode (30_encoding.md R311). -/
theorem ne_three_of_modeOf {m : BitVec 2} {mode : Mode} (h : modeOf m = some mode) : m ≠ 3 := by
  rintro rfl
  cases h

theorem body_setmode {m : BitVec 2} {mode : Mode} (h : modeOf m = some mode) (s : State) :
    body (.setmode m) s = (setModeBody mode s).andThen fun _ u => .done .unit u := by
  simp only [body, h]

/-- An answered `SetModeBody` is the two frames of its read-modify-write, and then the mirror (R700). -/
theorem setModeBody_sent (mode : Mode) {s : State} (h : s.answersFrom 0 [2, 2] = true) :
    ∃ b v c0 c1, s.reply [regByte s.cfg .cr0, s.cfg.dummy] = some [b, v] ∧
      setModeBody mode s = .done () ((s.sent
        (rmwFrames s.cfg .cr0 (modeMask s.cfg) (modeBits s.cfg mode) (b, v) [c0, c1])).setMode mode) := by
  obtain ⟨⟨b, v⟩, received, hreply, hlen, hrmw, -⟩ := rmwReg_sent .cr0 (modeMask s.cfg) (modeBits s.cfg mode) h
  obtain ⟨c0, c1, rfl⟩ := List.length_eq_two.1 hlen
  exact ⟨b, v, c0, c1, hreply, by rw [setModeBody, hrmw, Run.andThen_done]⟩

/-- Frames sent by an accepted command end as `EndsSending` says, once its result is delivered. -/
theorem endsSending_accept (i : Instr) (frames : List (List Byte × List Byte)) (r : Result) {s : State}
    (hs : Ready s) :
    EndsSending frames r s { (accept i s).sent frames with seq := .idle, outcome := some (.result r) } where
  delivered := by simp [Delivered, hs.1]
  control := by simp [SameControl]
  wire := by simp
  regs := State.sent_regs_control s _ none s.wire frames
  conv := State.sent_conv_control s _ none s.wire frames

/-- What the two frames of a read-modify-write of CR0 leave in the chip. -/
theorem EndsSending.rmw_cr0 {m x b v : Byte} {received : List Byte} {r : Result} {s t : State}
    (hc : s.cfg.wellFormed = true) (h : EndsSending (rmwFrames s.cfg .cr0 m x (b, v) received) r s t) :
    t.reg .cr0 = merge v m x ∧
      ActsOnConversion (s.exchanged [regByte s.cfg .cr0, s.cfg.dummy] [b, v]) t (merge v m x) :=
  ⟨(h.reg .cr0).trans (State.sent_reg_of_last hc (by decide) [_] _ received),
    actsOnConversion_of_conv (h.conv.trans (State.sent_conv_of_last s [_] _ received))⟩

/-- What a mode's bits do to the conversion where none is pending (10_state.md R121, R140): CMODE makes the chip
free-run, 1SHOT without it starts a one-shot conversion. -/
theorem ActsOnConversion.conv_of_modeBits {c : Config} {u t : State} {v : Byte} {mode : Mode}
    (hc : c.wellFormed = true) (hu : u.cfg = c)
    (h : ActsOnConversion u t (merge v (modeMask c) (modeBits c mode))) (hnone : u.moved.conv ≠ .oneShot) :
    t.conv = if mode = .continuous then .continuous else .oneShot := by
  have hcmode : cmodeSet c (merge v (modeMask c) (modeBits c mode)) = decide (mode = .continuous) := by
    rw [cmodeSet_merge, if_pos (cmodeSet_modeMask c), cmodeSet_modeBits hc]
  have honeShot : oneShotSet c (merge v (modeMask c) (modeBits c mode)) = decide (mode ≠ .continuous) := by
    rw [oneShotSet_merge, if_pos (oneShotSet_modeMask c), oneShotSet_modeBits hc]
  rw [h.starts hnone, isTrigger, restConv, hu, hcmode, honeShot]
  cases mode <;> rfl

/-- Settles O38: the read-modify-write of CR0 that owns the mode's two bits, and then the mirror. -/
theorem setmodeWritesBitsAndMirror : Obligations.SetmodeWritesBitsAndMirror := by
  intro s m mode hs hc hmode hanswers
  have hne : Instr.setmode m ≠ .setmode 3 := fun he => ne_three_of_modeOf hmode (Instr.setmode.inj he)
  obtain ⟨b, v, c0, c1, hreply, hbody⟩ := setModeBody_sent mode (s := accept (.setmode m) s)
    (by rwa [State.answersFrom_accept])
  have hend := endsSending_accept (.setmode m)
    (rmwFrames s.cfg .cr0 (modeMask s.cfg) (modeBits s.cfg mode) (b, v) [c0, c1]) .unit hs.ready
  obtain ⟨hreg, hacts⟩ := hend.rmw_cr0 hc
  have hexec := exec_of_done (r := .unit) hs.ready (guardFault_begun hs.begun hne)
    (by rw [body_setmode hmode, hbody, Run.andThen_done])
  have hconv := hacts.conv_of_modeBits hc (State.exchanged_cfg ..)
  exact ⟨_, s.exchanged [regByte s.cfg .cr0, s.cfg.dummy] [b, v], v, hexec, hend.delivered, rfl, hend.control.2,
    ⟨b, c0, c1, hreply, rfl, hend.wire⟩, hreg, hconv⟩

/-! ### TRIGGER -/

theorem body_trigger (s : State) : body .trigger s = (triggerBody s).andThen fun _ u => .done .unit u := rfl

theorem triggerBody_of_continuous {s : State} (h : s.mode = some .continuous) : triggerBody s = .done () s :=
  if_pos h

theorem triggerBody_of_ne_continuous {s : State} (h : s.mode ≠ some .continuous) :
    triggerBody s = rmwReg .cr0 (modeMask s.cfg) (oneShotMask s.cfg) s := if_neg h

/-- A command that performs no primitive ends where it began, its result delivered. -/
theorem exec_of_done_at_once {i : Instr} {s : State} {r : Result} (hs : Operational s) (hm : i ≠ .setmode 3)
    (h : body i (accept i s) = .done r (accept i s)) :
    ∃ t, exec i s = .next t ∧ Delivered s t r ∧ SameControl s t ∧ Untouched s t :=
  ⟨_, exec_of_done hs.ready (guardFault_begun hs.begun hm) h, ⟨rfl, hs.ready.1, rfl, rfl, rfl, rfl⟩,
    ⟨rfl, rfl⟩, ⟨rfl, rfl, rfl, rfl, rfl, rfl⟩⟩

/-- Settles O40: outside Continuous TRIGGER is a read-modify-write of CR0 that leaves 1SHOT set and CMODE clear. -/
theorem triggerSetsOneShot : Obligations.TriggerSetsOneShot := by
  intro s hs hc
  refine ⟨fun hm => ?_, fun hm hanswers => ?_⟩
  · refine exec_of_done_at_once hs (by simp) ?_
    rw [body_trigger, triggerBody_of_continuous (s := accept .trigger s) hm, Run.andThen_done]
  · obtain ⟨t, u, v, hexec, hdelivered, hcontrol, hframes, hreg, -, hacts⟩ :=
      exec_of_rmwReg (i := .trigger) hs (by simp)
        (by rw [body_trigger, triggerBody_of_ne_continuous (s := accept .trigger s) hm]) hc (by decide) hanswers
    refine ⟨t, u, v, hexec, hdelivered, hcontrol, hframes, hreg, fun hnone => ?_⟩
    obtain ⟨_, _, _, -, rfl, -⟩ := hframes
    rw [(hacts rfl).starts hnone, accept_cfg, State.exchanged_cfg, isTrigger_merge_oneShotMask hc, if_pos rfl]

/-! ### CONVDONE -/

theorem body_convdone (s : State) : body .convdone s = (completeBody s).andThen fun b u => .done (.bool b) u := rfl

/-- The frame of a completion check, a read of CR0 (R730). -/
abbrev checkFrame (c : Config) : List Byte := [regByte c .cr0, c.dummy]

theorem completeBody_of_continuous {s : State} (h : s.mode = some .continuous) : completeBody s = .done true s :=
  if_pos h

/-- Outside Continuous a check that is answered reports whether 1SHOT reads 0 (R730). -/
theorem completeBody_of_reply {s : State} {b v : Byte} (hm : s.mode ≠ some .continuous)
    (h : s.reply (checkFrame s.cfg) = some [b, v]) :
    completeBody s = .done (!oneShotSet s.cfg v) (s.exchanged (checkFrame s.cfg) [b, v]) := by
  rw [completeBody, if_neg hm, memRead_one_of_reply h, Run.andThen_done, u8_singleton, State.exchanged_cfg]

/-- Settles O41: CONVDONE is one check of completion. -/
theorem convdoneReportsOneShotBit : Obligations.ConvdoneReportsOneShotBit := by
  intro s hs
  refine ⟨fun hm => ?_, fun hm b0 v hreply => ?_⟩
  · refine exec_of_done_at_once hs (by simp) ?_
    rw [body_convdone, completeBody_of_continuous (s := accept .convdone s) hm, Run.andThen_done]
  · have hbit : (!oneShotSet s.cfg v) = (v &&& oneShotMask s.cfg == 0) := by rw [oneShotSet, bne, Bool.not_not]
    obtain ⟨t, hexec, hend⟩ := exec_of_sent (i := .convdone) (r := .bool (v &&& oneShotMask s.cfg == 0))
      (frames := [(checkFrame s.cfg, [b0, v])]) hs (by simp)
      (by rw [← hbit, body_convdone, completeBody_of_reply (s := accept .convdone s) hm hreply]; rfl)
    refine ⟨t, hexec, hend.delivered, hend.control, hend.wire, hend.regs.trans ?_⟩
    exact State.exchanged_read_regs (by rw [← regByte_masked, writtenReg_read]) _ [b0, v]

end Sys2Proof.Machine
end

section
/-! PROOFS. What a piece of a command has done so far, and the read of LTCBH to LTCBL that ends READTC, or outside
OneShot is all of it (43_conversion_mode.md R740, R760). -/

namespace Sys2Proof.Machine

/-! ### What a piece of a command has done so far -/

/-- From `s` a running command came to `u`: it sent these events and drew `n` answers; nothing has been delivered or
recorded meanwhile, and the control fields are kept. -/
structure Reached (s : State) (new : List Event) (n : Nat) (u : State) : Prop where
  control : SameControl s u
  fault : u.fault = s.fault
  outcome : u.outcome = s.outcome
  cfg : u.cfg = s.cfg
  inputs : u.inputs = s.inputs
  script : u.script = s.script
  wire : u.wire = s.wire ++ new
  drawn : u.drawn = s.drawn + n

theorem Reached.refl (s : State) : Reached s [] 0 s := by
  constructor <;> simp [SameControl]

theorem Reached.trans {s u t : State} {new₁ new₂ : List Event} {n₁ n₂ : Nat} (h₁ : Reached s new₁ n₁ u)
    (h₂ : Reached u new₂ n₂ t) : Reached s (new₁ ++ new₂) (n₁ + n₂) t where
  control := h₁.control.trans h₂.control
  fault := h₂.fault.trans h₁.fault
  outcome := h₂.outcome.trans h₁.outcome
  cfg := h₂.cfg.trans h₁.cfg
  inputs := h₂.inputs.trans h₁.inputs
  script := h₂.script.trans h₁.script
  wire := by rw [h₂.wire, h₁.wire, List.append_assoc]
  drawn := by rw [h₂.drawn, h₁.drawn, Nat.add_assoc]

theorem Reached.drawAt {s u : State} {new : List Event} {n : Nat} (h : Reached s new n u) (k : Nat) :
    u.drawAt k = s.drawAt (n + k) := State.drawAt_of_eq h.script h.drawn k

theorem reached_sequenced (q : Seq) (s : State) : Reached s [] 0 { s with seq := q } := by
  constructor <;> simp [SameControl]

theorem reached_exchanged (out received : List Byte) (s : State) :
    Reached s [.exchanged out received] 1 (s.exchanged out received) := by
  constructor <;> simp [SameControl]

theorem reached_timed (s : State) : Reached s [.timed s.time] 0 s.timed := by
  constructor <;> simp [SameControl]

/-- Delivering a result ends the command. -/
theorem Reached.delivered {s u : State} {new : List Event} {n : Nat} (h : Reached s new n u) (hs : s.fault = none)
    (r : Result) : Delivered s { u with seq := .idle, outcome := some (.result r) } r :=
  ⟨rfl, h.fault.trans hs, rfl, h.cfg, h.inputs, h.script⟩

/-! ### The read of the value -/

/-- The frame of READTC's last read, LTCBH to LTCBL (R740). -/
abbrev valueFrame (c : Config) : List Byte := [regByte c .ltcbh, c.dummy, c.dummy, c.dummy]

theorem readFrame_ltcbh (c : Config) : readFrame c (regByte c .ltcbh) 3 = valueFrame c := by
  rw [readFrame, regByte_masked]
  rfl

/-- LTCBM and LTCBL follow LTCBH (20_memory.md R210). -/
theorem readLegal_ltcbh {c : Config} (hc : c.wellFormed = true) : ReadLegal (regByte c .ltcbh) 3 := by
  obtain ⟨-, -, hlast⟩ := Config.wellFormed_pairs hc
  have hlt := regAddr_lt c .ltcbl
  exact ⟨by decide, by decide, by rw [regByte_masked, regByte_toNat]; omega⟩

/-- READTC's sequencer stands at its last read. -/
def State.atValueRead (s : State) : State := { s with seq := s.seq.goto tcReadStep }

theorem readTcValue_eq (s : State) :
    readTcValue s = (readReg (regByte s.cfg .ltcbh) 3 s.atValueRead).andThen fun data u =>
      .done (.temperature (.value (decodeTc (u24 data)))) u := rfl

/-- What READTC's last read does: its frame may be illegal where the parameters are no chip's, may be lost, or brings
the three bytes that are decoded. -/
theorem readTcValue_cases (s : State) :
    (¬ ReadLegal (regByte s.cfg .ltcbh) 3 ∧
      ∃ frame, readTcValue s = .raised (raise (.illegalFrame frame) s.atValueRead)) ∨
    (s.reply (valueFrame s.cfg) = none ∧ ∃ k, readTcValue s =
      .raised (raise (.transportFail (valueFrame s.cfg) k) (s.atValueRead.lostFrame (valueFrame s.cfg)))) ∨
    ∃ e0 e1 e2 e3, s.reply (valueFrame s.cfg) = some [e0, e1, e2, e3] ∧
      readTcValue s = .done (.temperature (.value (decodeTc (e1 ++ e2 ++ e3))))
        (s.atValueRead.exchanged (valueFrame s.cfg) [e0, e1, e2, e3]) := by
  rw [readTcValue_eq, ← readFrame_ltcbh]
  rcases readReg_cases (regByte s.cfg .ltcbh) 3 s.atValueRead with ⟨hl, h⟩ | ⟨-, ⟨received, hr, h⟩ | ⟨hr, h⟩⟩ <;>
    rw [h]
  · exact .inl ⟨fun hn => Bool.false_ne_true (hl.symm.trans hn.fits), _, rfl⟩
  · obtain ⟨e0, e1, e2, e3, rfl⟩ : ∃ e0 e1 e2 e3, received = [e0, e1, e2, e3] :=
      List.length_eq_four.1 (State.reply_length hr)
    refine .inr (.inr ⟨e0, e1, e2, e3, hr, ?_⟩)
    rw [Run.andThen_done, ← u24_eq_append]
    rfl
  · exact .inr (.inl ⟨hr, _, rfl⟩)

theorem readTcValue_of_reply {s : State} {e0 e1 e2 e3 : Byte} (hc : s.cfg.wellFormed = true)
    (h : s.reply (valueFrame s.cfg) = some [e0, e1, e2, e3]) :
    readTcValue s = .done (.temperature (.value (decodeTc (e1 ++ e2 ++ e3))))
      (s.atValueRead.exchanged (valueFrame s.cfg) [e0, e1, e2, e3]) := by
  rcases readTcValue_cases s with ⟨hl, -⟩ | ⟨hr, -⟩ | ⟨f0, f1, f2, f3, hr, hrun⟩
  · exact absurd (readLegal_ltcbh hc) hl
  · rw [h] at hr; cases hr
  · rw [h] at hr; cases hr; exact hrun

/-- The last read has sent one frame. -/
theorem reached_value (received : List Byte) (s : State) :
    Reached s [.exchanged (valueFrame s.cfg) received] 1 (s.atValueRead.exchanged (valueFrame s.cfg) received) :=
  (reached_sequenced _ s).trans (reached_exchanged (valueFrame s.cfg) received s.atValueRead)

/-! ### Outside OneShot -/

theorem body_readtc (s : State) : body .readtc s = readTcBody s := rfl

theorem readTcBody_of_ne_oneShot {s : State} (h : s.mode ≠ some .oneShot) : readTcBody s = readTcValue s := if_neg h

/-- Settles O42: outside OneShot READTC's body is its last read. -/
theorem readtcReadsAtOnce : Obligations.ReadtcReadsAtOnce := by
  intro s b0 b1 b2 b3 hs hc hm hreply
  have hreached := reached_value [b0, b1, b2, b3] (accept .readtc s)
  have hexec := exec_of_done (i := .readtc) hs.ready (guardFault_begun hs.begun (by simp))
    ((readTcBody_of_ne_oneShot (s := accept .readtc s) hm).trans
      (readTcValue_of_reply (s := accept .readtc s) hc hreply))
  refine ⟨_, hexec, hreached.delivered hs.ready.1 _, hreached.control, ?_, hreached.wire⟩
  exact State.exchanged_read_regs (s := (accept .readtc s).atValueRead) (by rw [← regByte_masked, writtenReg_read]) _
    [b0, b1, b2, b3]

/-- Settles O48: what the registers hold is what the one read of each command brings. -/
theorem readingsReturnChipResult : Obligations.ReadingsReturnChipResult := by
  intro s tc cj hs hc hvalid
  obtain ⟨b, htc⟩ := hvalid.tcRead
  obtain ⟨b', hcj⟩ := hvalid.cjRead
  refine ⟨fun hm => ?_, ?_⟩
  · obtain ⟨t, hexec, hdelivered, hcontrol, -⟩ := readtcReadsAtOnce s b _ _ _ hs hc hm htc
    rw [← u24_eq_append, u24_extract] at hdelivered
    exact ⟨t, hexec, hdelivered, hcontrol⟩
  · obtain ⟨t, hexec, hdelivered, hcontrol, -⟩ := readcjReturnsDecodedValue s b' _ _ hs hc hcj
    rw [extract_append] at hdelivered
    exact ⟨t, hexec, hdelivered, hcontrol⟩

end Sys2Proof.Machine
end

section
/-! PROOFS. READTC in OneShot, one equation for each way its trigger and a pass of its poll end
(43_conversion_mode.md R720, R740, R741). -/

namespace Sys2Proof.Machine

theorem ne_continuous_of_oneShot {s : State} (h : s.mode = some .oneShot) : s.mode ≠ some .continuous := by
  rw [h]
  nofun

/-! ### The trigger -/

/-- The write of a trigger whose read brought `v` (R720). -/
abbrev triggerFrame (c : Config) (v : Byte) : List Byte :=
  [regByte c .cr0 ||| 0x80#8, merge v (modeMask c) (oneShotMask c)]

theorem readFrame_cr0 (c : Config) : readFrame c (regByte c .cr0) 1 = checkFrame c := by
  rw [readFrame, regByte_masked]
  rfl

/-- The chip after an answered trigger. -/
def State.triggered (s : State) (b v : Byte) (received : List Byte) : State :=
  (s.exchanged (checkFrame s.cfg) [b, v]).exchanged (triggerFrame s.cfg v) received

theorem reached_triggered (s : State) (b v : Byte) (received : List Byte) :
    Reached s [.exchanged (checkFrame s.cfg) [b, v], .exchanged (triggerFrame s.cfg v) received] 2
      (s.triggered b v received) :=
  (reached_exchanged _ _ s).trans (reached_exchanged _ _ _)

section
variable {s : State} (hm : s.mode ≠ some .continuous)
include hm

theorem triggerBody_of_lost_read (h : s.reply (checkFrame s.cfg) = none) :
    triggerBody s = .raised (raise (.transportFail (checkFrame s.cfg) (s.seq.exchanges + 1))
      (s.lostFrame (checkFrame s.cfg))) := by
  have hread := readReg_of_no_reply (readLegal_regByte s.cfg .cr0) ((readFrame_cr0 s.cfg).symm ▸ h)
  rw [triggerBody_of_ne_continuous hm, rmwReg, rmw_of_raised hread, readFrame_cr0]

theorem triggerBody_of_read {b v : Byte} (h : s.reply (checkFrame s.cfg) = some [b, v]) :
    triggerBody s = writeReg (regByte s.cfg .cr0) (merge v (modeMask s.cfg) (oneShotMask s.cfg))
      (s.exchanged (checkFrame s.cfg) [b, v]) := by
  rw [triggerBody_of_ne_continuous hm, rmwReg,
    rmw_of_reply (readLegal_regByte s.cfg .cr0) ((readFrame_cr0 s.cfg).symm ▸ h), readFrame_cr0]

theorem triggerBody_of_lost_write {b v : Byte} (h : s.reply (checkFrame s.cfg) = some [b, v])
    (hw : (s.exchanged (checkFrame s.cfg) [b, v]).reply (triggerFrame s.cfg v) = none) :
    ∃ k, triggerBody s = .raised (raise (.transportFail (triggerFrame s.cfg v) k)
      ((s.exchanged (checkFrame s.cfg) [b, v]).lostFrame (triggerFrame s.cfg v))) :=
  ⟨_, (triggerBody_of_read hm h).trans (writeReg_of_no_reply (regByte_masked_lt s.cfg .cr0) hw)⟩

theorem triggerBody_of_replies {b v : Byte} {received : List Byte} (h : s.reply (checkFrame s.cfg) = some [b, v])
    (hw : (s.exchanged (checkFrame s.cfg) [b, v]).reply (triggerFrame s.cfg v) = some received) :
    triggerBody s = .done () (s.triggered b v received) :=
  (triggerBody_of_read hm h).trans (writeReg_of_reply (regByte_masked_lt s.cfg .cr0) hw)

end

/-! ### READTC's start -/

/-- The start time is taken and kept (R740). -/
def State.polling (s : State) : State := { s.timed with seq := s.seq.started s.time }

theorem reached_polling (s : State) : Reached s [.timed s.time] 0 s.polling :=
  (reached_timed s).trans (reached_sequenced _ _)

theorem startPoll_eq (s : State) : startPoll s = pollLoop (pollBudget s.cfg) s.time s.polling := rfl

theorem readTcBody_of_oneShot {s : State} (h : s.mode = some .oneShot) :
    readTcBody s = (triggerBody s).andThen fun _ u => startPoll u := if_pos h

/-- From an answered trigger on READTC is its poll, begun with the time read after the trigger. -/
theorem readTcBody_of_replies {s : State} {b v : Byte} {received : List Byte} (hm : s.mode = some .oneShot)
    (h : s.reply (checkFrame s.cfg) = some [b, v])
    (hw : (s.exchanged (checkFrame s.cfg) [b, v]).reply (triggerFrame s.cfg v) = some received) :
    readTcBody s = pollLoop (pollBudget s.cfg) (s.triggered b v received).time (s.triggered b v received).polling := by
  rw [readTcBody_of_oneShot hm, triggerBody_of_replies (ne_continuous_of_oneShot hm) h hw, Run.andThen_done,
    startPoll_eq, (reached_triggered s b v received).cfg]

/-- What READTC does in OneShot: a frame of its trigger is lost, or its poll begins, the start time being that of its
first loop head. -/
theorem readTcBody_cases {s : State} (hm : s.mode = some .oneShot) :
    (s.reply (checkFrame s.cfg) = none ∧ ∃ k, readTcBody s =
      .raised (raise (.transportFail (checkFrame s.cfg) k) (s.lostFrame (checkFrame s.cfg)))) ∨
    ∃ b v, ((s.exchanged (checkFrame s.cfg) [b, v]).reply (triggerFrame s.cfg v) = none ∧ ∃ k, readTcBody s =
        .raised (raise (.transportFail (triggerFrame s.cfg v) k)
          ((s.exchanged (checkFrame s.cfg) [b, v]).lostFrame (triggerFrame s.cfg v)))) ∨
      ∃ r u, readTcBody s = pollLoop (pollBudget s.cfg) u.time u ∧
        Reached s [.exchanged (checkFrame s.cfg) [b, v], .exchanged (triggerFrame s.cfg v) r, .timed u.time] 2 u := by
  have htrigger := ne_continuous_of_oneShot hm
  cases hread : s.reply (checkFrame s.cfg) with
  | none =>
    exact .inl ⟨rfl, _, by rw [readTcBody_of_oneShot hm, triggerBody_of_lost_read htrigger hread, Run.andThen_raised]⟩
  | some received =>
    obtain ⟨b, v, rfl⟩ := State.reply_two hread
    refine .inr ⟨b, v, ?_⟩
    cases hwrite : (s.exchanged (checkFrame s.cfg) [b, v]).reply (triggerFrame s.cfg v) with
    | none =>
      obtain ⟨k, hlost⟩ := triggerBody_of_lost_write htrigger hread hwrite
      exact .inl ⟨rfl, k, by rw [readTcBody_of_oneShot hm, hlost, Run.andThen_raised]⟩
    | some r =>
      have htime : (s.triggered b v r).polling.time = (s.triggered b v r).time := rfl
      refine .inr ⟨r, (s.triggered b v r).polling, ?_, ?_⟩
      · rw [htime]
        exact readTcBody_of_replies hm hread hwrite
      · rw [htime]
        exact (reached_triggered s b v r).trans (reached_polling _)

/-! ### A pass of the poll -/

/-- The loop head after a pass whose check received `received` (R740). -/
def State.nextHead (received : List Byte) (s : State) : State :=
  { s.pollPass received with seq := (s.pollPass received).seq.goto pollHead }

/-- The events of such a pass: the check, the reading of the time and the sleep. -/
def passEvents (received : List Byte) (s : State) : List Event :=
  [.exchanged (checkFrame s.cfg) received, .timed (s.exchanged (checkFrame s.cfg) received).time, .slept s.cfg.pollMs]

theorem reached_nextHead (received : List Byte) (s : State) :
    Reached s (passEvents received s) 2 (s.nextHead received) := by
  constructor <;> simp [SameControl, State.nextHead, State.pollPass, passEvents]

/-- The time a pass's timeout test looks at. -/
def State.checkTime (received : List Byte) (s : State) : Nat := (s.exchanged (checkFrame s.cfg) received).time

section
variable {n start : Nat} {s : State} (hm : s.mode ≠ some .continuous)
include hm

theorem completeBody_of_lost (h : s.reply (checkFrame s.cfg) = none) :
    completeBody s = .raised (raise (.transportFail (checkFrame s.cfg) (s.seq.exchanges + 1))
      (s.lostFrame (checkFrame s.cfg))) := by
  have hread := readReg_of_no_reply (readLegal_regByte s.cfg .cr0) ((readFrame_cr0 s.cfg).symm ▸ h)
  rw [completeBody, if_neg hm, memRead, hread, Run.andThen_raised, readFrame_cr0]

theorem pollLoop_of_lost (h : s.reply (checkFrame s.cfg) = none) :
    pollLoop (n + 1) start s = .raised (raise (.transportFail (checkFrame s.cfg) (s.seq.exchanges + 1))
      (s.lostFrame (checkFrame s.cfg))) := by
  rw [pollLoop, completeBody_of_lost hm h, Run.andThen_raised]

variable {b v : Byte} (h : s.reply (checkFrame s.cfg) = some [b, v])
include h

/-- A check that reads 1SHOT = 0 is followed by the read of the value, with no timeout test and no sleep. -/
theorem pollLoop_of_complete (hv : oneShotSet s.cfg v = false) :
    pollLoop (n + 1) start s = readTcValue (s.exchanged (checkFrame s.cfg) [b, v]) := by
  rw [pollLoop, completeBody_of_reply hm h, Run.andThen_done, hv]
  rfl

/-- Where that read is answered, the poll delivers what it decodes to. -/
theorem pollLoop_of_value (hc : s.cfg.wellFormed = true) (hv : oneShotSet s.cfg v = false) {e0 e1 e2 e3 : Byte}
    (hvalue : (s.exchanged (checkFrame s.cfg) [b, v]).reply (valueFrame s.cfg) = some [e0, e1, e2, e3]) :
    ∃ u, pollLoop (n + 1) start s = .done (.temperature (.value (decodeTc (e1 ++ e2 ++ e3)))) u ∧
      Reached s [.exchanged (checkFrame s.cfg) [b, v], .exchanged (valueFrame s.cfg) [e0, e1, e2, e3]] 2 u := by
  have hreached := (reached_exchanged (checkFrame s.cfg) [b, v] s).trans (reached_value [e0, e1, e2, e3] _)
  rw [State.exchanged_cfg] at hreached
  refine ⟨_, ?_, hreached⟩
  rw [pollLoop_of_complete hm h hv, readTcValue_of_reply (by rwa [State.exchanged_cfg])
    (by rwa [State.exchanged_cfg]), State.exchanged_cfg]

theorem pollLoop_of_late (hv : oneShotSet s.cfg v = true)
    (hlate : timeoutMs < elapsed s.cfg start (s.checkTime [b, v])) :
    pollLoop (n + 1) start s = .done (.temperature .nan) (s.exchanged (checkFrame s.cfg) [b, v]).timed := by
  rw [pollLoop, completeBody_of_reply hm h, Run.andThen_done, hv, State.exchanged_cfg]
  exact if_pos hlate

theorem pollLoop_of_pending (hv : oneShotSet s.cfg v = true)
    (hin : elapsed s.cfg start (s.checkTime [b, v]) ≤ timeoutMs) :
    pollLoop (n + 1) start s = pollLoop n start (s.nextHead [b, v]) := by
  rw [pollLoop, completeBody_of_reply hm h, Run.andThen_done, hv, State.exchanged_cfg]
  exact if_neg (not_lt.2 hin)

/-- Whatever follows a check that is answered follows the state it left. -/
theorem pollLoop_prims_of_reply :
    Prims (s.exchanged (checkFrame s.cfg) [b, v]) (pollLoop (n + 1) start s).state := by
  cases hv : oneShotSet s.cfg v with
  | false =>
    rw [pollLoop_of_complete hm h hv]
    exact readTcValue_prims _
  | true =>
    rcases lt_or_ge timeoutMs (elapsed s.cfg start (s.checkTime [b, v])) with hlate | hin
    · rw [pollLoop_of_late hm h hv hlate]
      exact .one (.timed _)
    · rw [pollLoop_of_pending hm h hv hin]
      exact (((Prims.one (.timed _)).tail (.slept _ _)).tail (.sequenced _ _)).trans (pollLoop_prims n start _)

end

/-! ### READTC with an answered trigger -/

theorem exec_readtc {s : State} (hs : Operational s) :
    exec .readtc s = .next (finish (readTcBody (accept .readtc s))) := by
  rw [exec_eq_command, command_of_ready hs.ready (guardFault_begun hs.begun (by simp)), body_readtc]

theorem exec_readtc_sameControl {s t : State} (h : exec .readtc s = .next t) : SameControl s t := by
  obtain ⟨-, -, -, -, -, hbegun, hmode⟩ := fdcFieldsHaveSingleWriters .readtc s t h
  exact ⟨hmode (by simp) (by simp), hbegun (by simp)⟩

/-- The poll's first loop head and its start time: what an answered trigger and the reading of the time lead to. -/
theorem exec_readtc_of_answers {s : State} (hs : Operational s) (hm : s.mode = some .oneShot)
    (h0 : answers (s.drawAt 0) 2 = true) (h1 : answers (s.drawAt 1) 2 = true) :
    ∃ b v r start u, s.reply (checkFrame s.cfg) = some [b, v] ∧
      exec .readtc s = .next (finish (pollLoop (pollBudget s.cfg) start u)) ∧
      Reached (accept .readtc s)
        [.exchanged (checkFrame s.cfg) [b, v], .exchanged (triggerFrame s.cfg v) r, .timed start] 2 u := by
  obtain ⟨_, hread⟩ := State.reply_of_answers (s := accept .readtc s) (out := checkFrame s.cfg) h0
  obtain ⟨b, v, rfl⟩ := State.reply_two hread
  obtain ⟨r, hwrite⟩ := State.reply_of_answers (out := triggerFrame s.cfg v)
    (s := (accept .readtc s).exchanged (checkFrame s.cfg) [b, v]) (by simpa [State.draw] using h1)
  exact ⟨b, v, r, _, _, hread, (exec_readtc hs).trans
    (by rw [readTcBody_of_replies (s := accept .readtc s) hm hread hwrite]; rfl),
    (reached_triggered (accept .readtc s) b v r).trans (reached_polling _)⟩

/-- Settles O43: in OneShot READTC is its trigger, the reading of the time and its poll, the first check of which is
answered. -/
theorem readtcTriggersAndChecks : Obligations.ReadtcTriggersAndChecks := by
  intro s hs hc hm hanswers
  obtain ⟨ha0, ha1, ha2, ha3⟩ : answers (s.drawAt 0) 2 = true ∧ answers (s.drawAt 1) 2 = true ∧
      answers (s.drawAt 2) 2 = true ∧ answers (s.drawAt 3) 4 = true := by
    simpa [State.answersFrom] using hanswers
  obtain ⟨b0, v, r, start, u, hread, hexec, hpoll⟩ := exec_readtc_of_answers hs hm ha0 ha1
  have hu : u.mode ≠ some .continuous := hpoll.control.1 ▸ ne_continuous_of_oneShot hm
  obtain ⟨_, hcheck⟩ := State.reply_of_answers (s := u) (out := checkFrame u.cfg)
    (by rw [State.draw, hpoll.drawAt]; exact ha2)
  obtain ⟨d0, w, rfl⟩ := State.reply_two hcheck
  have hucfg : u.cfg = s.cfg := hpoll.cfg
  rw [← hucfg] at hc ⊢
  have hchecked := hpoll.trans (reached_exchanged (checkFrame u.cfg) [d0, w] u)
  obtain ⟨n, hn⟩ : ∃ n, pollBudget s.cfg = n + 1 := ⟨_, rfl⟩
  rw [hn] at hexec
  obtain ⟨rest, hrest⟩ := (finish_prims (pollLoop_prims_of_reply (n := n) (start := start) hu hcheck)).frame.wire
  rw [hchecked.wire] at hrest
  rw [← hucfg] at hread hrest hpoll
  refine ⟨_, b0, v, r, start, d0, w, rest, hexec, exec_readtc_sameControl hexec, hread, hrest.symm, fun hw => ?_⟩
  obtain ⟨_, hvalue⟩ := State.reply_of_answers (s := u.exchanged (checkFrame u.cfg) [d0, w]) (out := valueFrame u.cfg)
    (by rw [State.draw, hchecked.drawAt]; exact ha3)
  obtain ⟨e0, e1, e2, e3, rfl⟩ := List.length_eq_four.1 (State.reply_length hvalue)
  obtain ⟨t, hend, hvalued⟩ := pollLoop_of_value (n := n) (start := start) hu hcheck hc hw hvalue
  have hdone := hpoll.trans hvalued
  rw [hend, finish_done] at hrest ⊢
  exact ⟨e0, e1, e2, e3, hdone.delivered hs.ready.1 _,
    List.append_cancel_left (hrest.trans (hdone.wire.trans (by simp)))⟩

end Sys2Proof.Machine
end

section
/-! PROOFS. What a command delivers, from what its pieces come out with; NaN and the value of a poll, with all the
events before them (43_conversion_mode.md R740 to R743). -/

namespace Sys2Proof.Machine

/-! ### How a piece of a command comes out -/

/-- A piece of a command comes out with a value, as `P` says, or in a fault delivered, or still running with nothing
delivered. -/
def Run.Ends {α : Type} (P : α → State → Prop) : Run α → Prop
  | .done a u => P a u
  | .raised u => ∃ f, u.outcome = some (.fault f)
  | .waiting u => u.outcome = none

theorem Run.ends_raise {α : Type} {P : α → State → Prop} (f : FdcFault) (s : State) :
    (Run.raised (raise f s) : Run α).Ends P := ⟨f, rfl⟩

theorem Run.Ends.imp {α : Type} {P Q : α → State → Prop} {r : Run α} (h : r.Ends P) (hPQ : ∀ a u, P a u → Q a u) :
    r.Ends Q := by
  cases r with
  | done a u => exact hPQ a u h
  | raised u => exact h
  | waiting u => exact h

theorem Run.andThen_ends {α β : Type} {P : α → State → Prop} {Q : β → State → Prop} {r : Run α}
    {g : α → State → Run β} (h : r.Ends P) (hg : ∀ a u, P a u → (g a u).Ends Q) : (r.andThen g).Ends Q := by
  cases r with
  | done a u => exact hg a u h
  | raised u => exact h
  | waiting u => exact h

/-- A result delivered is the value the command's body came out with. -/
theorem finish_of_result {P : Result → State → Prop} {run : Run Result} {r : Result} (h : run.Ends P)
    (hr : (finish run).outcome = some (.result r)) :
    ∃ u, P r u ∧ finish run = { u with seq := .idle, outcome := some (.result r) } := by
  cases run with
  | done a u =>
    cases hr
    exact ⟨u, h, rfl⟩
  | raised u =>
    obtain ⟨f, hf⟩ := h
    rw [finish_raised, hf] at hr
    cases hr
  | waiting u =>
    rw [finish_waiting, show u.outcome = none from h] at hr
    cases hr

/-- So an instruction that delivers a result was admitted, and its body came out with it. -/
theorem exec_of_result {P : Result → State → Prop} {i : Instr} {s t : State} {r : Result} (h : exec i s = .next t)
    (hr : t.outcome = some (.result r)) (hbody : (body i (accept i s)).Ends P) :
    ∃ u, P r u ∧ t = { u with seq := .idle, outcome := some (.result r) } := by
  rw [exec_eq_command] at h
  rcases (command_next h).2 with ⟨f, -, rfl⟩ | ⟨-, rfl⟩
  · cases hr
  · exact finish_of_result hbody hr

/-! ### NaN comes from no other instruction -/

/-- A piece of a command that comes out with a value, or in a fault. -/
abbrev Run.Completes {α : Type} (r : Run α) : Prop := r.Ends fun _ _ => True

theorem readReg_completes (a : Byte) (n : Nat) (s : State) : (readReg a n s).Completes := by
  rcases readReg_cases a n s with ⟨-, h⟩ | ⟨-, ⟨r, -, h⟩ | ⟨-, h⟩⟩ <;> rw [h]
  · exact Run.ends_raise _ _
  · trivial
  · exact Run.ends_raise _ _

theorem writeReg_completes (a d : Byte) (s : State) : (writeReg a d s).Completes := by
  rcases writeReg_cases a d s with ⟨-, h⟩ | ⟨-, ⟨r, -, h⟩ | ⟨-, h⟩⟩ <;> rw [h]
  · exact Run.ends_raise _ _
  · trivial
  · exact Run.ends_raise _ _

theorem rmw_completes (a m x : Byte) (s : State) : (rmw a m x s).Completes :=
  Run.andThen_ends (readReg_completes a 1 s) fun _ u _ => writeReg_completes a _ u

theorem setModeBody_completes (m : Mode) (s : State) : (setModeBody m s).Completes :=
  Run.andThen_ends (rmw_completes _ _ _ s) fun _ _ _ => trivial

theorem triggerBody_completes (s : State) : (triggerBody s).Completes := by
  unfold triggerBody
  split
  · trivial
  · exact rmw_completes _ _ _ s

theorem completeBody_completes (s : State) : (completeBody s).Completes := by
  unfold completeBody
  split
  · trivial
  · exact Run.andThen_ends (readReg_completes _ 1 s) fun _ _ _ => trivial

/-- A result is not the timeout's. -/
abbrev NotNan (r : Result) (_ : State) : Prop := r ≠ .temperature .nan

/-- A command's last step, which makes of what came before a result that is not the timeout's. -/
theorem Run.Completes.notNan {α : Type} {r : Run α} {value : α → State → Result} (h : r.Completes)
    (hv : ∀ a u, value a u ≠ .temperature .nan) : (r.andThen fun a u => .done (value a u) u).Ends NotNan :=
  Run.andThen_ends h fun a u _ => hv a u

theorem readTcValue_notNan (s : State) : (readTcValue s).Ends NotNan :=
  (readReg_completes _ 3 s.atValueRead).notNan (by simp)

theorem beginBody_notNan (s : State) : (beginBody s).Ends NotNan := by
  refine Run.andThen_ends (P := fun _ _ => True) trivial fun granted u _ => ?_
  split
  · refine Run.andThen_ends (writeReg_completes _ _ u) fun _ u _ => ?_
    refine Run.andThen_ends (rmw_completes _ _ _ u) fun _ u _ => ?_
    refine Run.andThen_ends (writeReg_completes _ _ u) fun _ u _ => ?_
    refine Run.andThen_ends (rmw_completes _ _ _ u) fun _ u _ => ?_
    exact Run.andThen_ends (setModeBody_completes _ u) fun _ u _ => by simp [Run.Ends]
  · simp [Run.Ends]

theorem writeTcThresholds_notNan (lo hi : BitVec 16) (s : State) : (writeTcThresholds lo hi s).Ends NotNan := by
  refine Run.andThen_ends (writeReg_completes _ _ s) fun _ u _ => ?_
  refine Run.andThen_ends (writeReg_completes _ _ u) fun _ u _ => ?_
  refine Run.andThen_ends (writeReg_completes _ _ u) fun _ u _ => ?_
  exact (writeReg_completes _ _ u).notNan (by simp)

/-- No instruction but READTC has the timeout among its results (30_encoding.md R310). -/
theorem body_notNan {i : Instr} (h : i ≠ .readtc) (s : State) : (body i s).Ends NotNan := by
  cases i with
  | rd8 a => exact (readReg_completes a 1 s).notNan (by simp)
  | rd16 a => exact (readReg_completes a 2 s).notNan (by simp)
  | rd24 a => exact (readReg_completes a 3 s).notNan (by simp)
  | wr8 a d => exact (writeReg_completes a d s).notNan (by simp)
  | rmw a m x => exact (rmw_completes a m x s).notNan (by simp)
  | begin => exact beginBody_notNan s
  | setmode m =>
    simp only [body]
    split
    · exact (setModeBody_completes _ s).notNan (by simp)
    · exact Run.ends_raise _ s
  | getmode => simp [body, Run.Ends]
  | settctype t => exact (rmw_completes _ _ _ s).notNan (by simp)
  | gettctype => exact (readReg_completes _ 1 s).notNan (by simp)
  | readfault => exact (readReg_completes _ 1 s).notNan (by simp)
  | trigger => exact (triggerBody_completes s).notNan (by simp)
  | convdone => exact (completeBody_completes s).notNan (by simp)
  | readcj => exact (readReg_completes _ 2 s).notNan (by simp)
  | readtc => exact absurd rfl h
  | settcthr flow fhigh =>
    simp only [body]
    split
    · exact Run.ends_raise _ s
    · split
      · exact Run.ends_raise _ s
      · exact writeTcThresholds_notNan _ _ s
  | setcjthr low high =>
    exact Run.andThen_ends (writeReg_completes _ _ s) fun _ u _ => (writeReg_completes _ _ u).notNan (by simp)
  | setnf f => exact (rmw_completes _ _ _ s).notNan (by simp)

/-! ### The events of a poll -/

/-- The poll sent these events after its start time and came out with this result (R740, R741, R743). -/
def Polled (c : Config) (start : Nat) (events : List Event) : Result → Prop
  | .temperature .nan => PolledToTimeout c start events
  | .temperature (.value x) => PolledToValue c start events x
  | _ => False

/-- A poll that went on past some events goes on to the same end. -/
theorem Polled.prepend {c : Config} {start : Nat} {before events : List Event} {r : Result}
    (hb : ∀ e ∈ before, PollWentOn c start e) (h : Polled c start events r) : Polled c start (before ++ events) r := by
  unfold Polled at h ⊢
  split at h
  · obtain ⟨mid, b, v, stop, rfl, hv, hlate, hmid⟩ := h
    exact ⟨before ++ mid, b, v, stop, (List.append_assoc ..).symm, hv, hlate, List.forall_mem_append.2 ⟨hb, hmid⟩⟩
  · obtain ⟨mid, b, v, e0, e1, e2, e3, rfl, hv, hx, hmid⟩ := h
    exact ⟨before ++ mid, b, v, e0, e1, e2, e3, (List.append_assoc ..).symm, hv, hx,
      List.forall_mem_append.2 ⟨hb, hmid⟩⟩
  · exact h.elim

/-- A pass that was not the last one went on past its three events. -/
theorem passEvents_wentOn {start : Nat} {s : State} {b v : Byte} (hv : oneShotSet s.cfg v = true)
    (hin : elapsed s.cfg start (s.checkTime [b, v]) ≤ timeoutMs) :
    ∀ e ∈ passEvents [b, v] s, PollWentOn s.cfg start e := by
  simp only [passEvents, List.forall_mem_cons]
  exact ⟨.inl ⟨b, v, rfl, hv⟩, .inr (.inl ⟨_, rfl, hin⟩), .inr (.inr rfl), nofun⟩

/-- What one completion check can lead to: it is lost, reads 1SHOT = 0, or reads 1SHOT = 1 too late or in time. -/
theorem check_cases (start : Nat) (s : State) :
    s.reply (checkFrame s.cfg) = none ∨ ∃ b v, s.reply (checkFrame s.cfg) = some [b, v] ∧
      (oneShotSet s.cfg v = false ∨ oneShotSet s.cfg v = true ∧
        (timeoutMs < elapsed s.cfg start (s.checkTime [b, v]) ∨
          elapsed s.cfg start (s.checkTime [b, v]) ≤ timeoutMs)) := by
  cases h : s.reply (checkFrame s.cfg) with
  | none => exact .inl rfl
  | some received =>
    obtain ⟨b, v, rfl⟩ := State.reply_two h
    refine .inr ⟨b, v, rfl, ?_⟩
    cases oneShotSet s.cfg v with
    | false => exact .inl rfl
    | true => exact .inr ⟨rfl, lt_or_ge ..⟩

/-- A poll with nothing delivered yet comes out with NaN or a value after the events R741 says, or in a fault, or still
runs. -/
theorem pollLoop_ends {n start : Nat} {s : State} (hm : s.mode ≠ some .continuous) (ho : s.outcome = none) :
    (pollLoop n start s).Ends fun r u => ∃ events k, Reached s events k u ∧ Polled s.cfg start events r := by
  induction n generalizing s with
  | zero => exact ho
  | succ n ih =>
    rcases check_cases start s with h | ⟨b, v, h, hv | ⟨hv, hlate | hin⟩⟩
    · rw [pollLoop_of_lost hm h]
      exact Run.ends_raise _ _
    · rw [pollLoop_of_complete hm h hv]
      have hcheck := reached_exchanged (checkFrame s.cfg) [b, v] s
      rcases readTcValue_cases (s.exchanged (checkFrame s.cfg) [b, v]) with
        ⟨-, frame, hrun⟩ | ⟨-, k, hrun⟩ | ⟨e0, e1, e2, e3, -, hrun⟩ <;> rw [hrun]
      · exact Run.ends_raise _ _
      · exact Run.ends_raise _ _
      · refine ⟨_, _, hcheck.trans (reached_value [e0, e1, e2, e3] _), [], b, v, e0, e1, e2, e3, ?_, hv, rfl, nofun⟩
        rw [State.exchanged_cfg]
        rfl
    · rw [pollLoop_of_late hm h hv hlate]
      exact ⟨_, _, (reached_exchanged (checkFrame s.cfg) [b, v] s).trans (reached_timed _), [], b, v, _, rfl, hv, hlate,
        nofun⟩
    · rw [pollLoop_of_pending hm h hv hin]
      have hpass := reached_nextHead [b, v] s
      refine (ih (s := s.nextHead [b, v]) (hpass.control.1 ▸ hm) (hpass.outcome.trans ho)).imp ?_
      rintro r u ⟨events, k, hrest, hp⟩
      exact ⟨_, _, hpass.trans hrest, (hpass.cfg ▸ hp).prepend (passEvents_wentOn hv hin)⟩

/-- So does READTC in OneShot, after its trigger and the start time. -/
theorem readTcBody_ends {s : State} (hm : s.mode = some .oneShot) (ho : s.outcome = none) :
    (readTcBody s).Ends fun r u => ∃ r1 r2 w start events k,
      Reached s ([.exchanged (checkFrame s.cfg) r1, .exchanged [regByte s.cfg .cr0 ||| 0x80#8, w] r2, .timed start] ++
        events) k u ∧ Polled s.cfg start events r := by
  rcases readTcBody_cases hm with ⟨-, k, h⟩ | ⟨b, v, ⟨-, k, h⟩ | ⟨r, u, h, hpoll⟩⟩ <;> rw [h]
  · exact Run.ends_raise _ _
  · exact Run.ends_raise _ _
  · refine (pollLoop_ends (hpoll.control.1 ▸ ne_continuous_of_oneShot hm) (hpoll.outcome.trans ho)).imp ?_
    rintro result t ⟨events, k, hrest, hp⟩
    exact ⟨_, r, _, _, events, _, hpoll.trans hrest, hpoll.cfg ▸ hp⟩

theorem exec_readtc_polled {s t : State} {r : Result} (hm : s.mode = some .oneShot) (h : exec .readtc s = .next t)
    (hr : t.outcome = some (.result r)) :
    SameControl s t ∧ ∃ r1 r2 w start events,
      t.wire = s.wire ++ [.exchanged (checkFrame s.cfg) r1, .exchanged [regByte s.cfg .cr0 ||| 0x80#8, w] r2,
        .timed start] ++ events ∧ Polled s.cfg start events r := by
  obtain ⟨u, ⟨r1, r2, w, start, events, k, hu, hp⟩, rfl⟩ :=
    exec_of_result h hr (readTcBody_ends (s := accept .readtc s) hm rfl)
  exact ⟨hu.control, r1, r2, w, start, events, hu.wire.trans (List.append_assoc ..).symm, hp⟩

/-! ### A poll that was left running -/

/-- A poll left at its loop head goes on (logs 1 and 20). -/
theorem resume_of_pollHead {s : State} {l : Locals} {start : Nat} (hf : s.fault = none)
    (hseq : s.seq = .busy .readtc pollHead l) (hl : l.start = some start) :
    resume s = .next (finish (pollLoop (pollBudget s.cfg) start s)) := by
  simp [resume, hf, hseq, hl]

/-- A step that delivers a result of such a poll has gone on with it. -/
theorem step_of_result {s t : State} {l : Locals} {start : Nat} {r : Result}
    (hseq : s.seq = .busy .readtc pollHead l) (hl : l.start = some start) (ho : s.outcome = none)
    (h : step s = .next t) (hr : t.outcome = some (.result r)) :
    s.fault = none ∧ t = finish (pollLoop (pollBudget s.cfg) start s) := by
  have hidle : s.seq ≠ .idle := by rw [hseq]; nofun
  have hresume (hnext : resume s = .next t) : s.fault = none ∧ t = finish (pollLoop (pollBudget s.cfg) start s) := by
    obtain ⟨hf, -⟩ := resume_ops hnext
    rw [resume_of_pollHead hf hseq hl] at hnext
    cases hnext
    exact ⟨hf, rfl⟩
  unfold step nextStep at h
  split at h
  · cases h; cases hr
  · cases h; cases ho.symm.trans hr
  · cases h; cases hr
  · split at h
    · cases h; cases ho.symm.trans hr
    · exact hresume h
  · exact hresume (by rwa [if_neg hidle] at h)

theorem step_polled {s t : State} {l : Locals} {start : Nat} {r : Result} (hm : s.mode ≠ some .continuous)
    (hseq : s.seq = .busy .readtc pollHead l) (hl : l.start = some start) (ho : s.outcome = none)
    (h : step s = .next t) (hr : t.outcome = some (.result r)) :
    SameControl s t ∧ t.seq = .idle ∧ t.fault = none ∧
      ∃ events, t.wire = s.wire ++ events ∧ Polled s.cfg start events r := by
  obtain ⟨hf, rfl⟩ := step_of_result hseq hl ho h hr
  obtain ⟨u, ⟨events, k, hu, hp⟩, hfinish⟩ := finish_of_result (pollLoop_ends hm ho) hr
  rw [hfinish]
  exact ⟨hu.control, rfl, hu.fault.trans hf, events, hu.wire, hp⟩

/-- A poll in Continuous would need no check, and could not time out. -/
theorem pollLoop_notNan_of_continuous {n start : Nat} {s : State} (hm : s.mode = some .continuous)
    (ho : s.outcome = none) : (pollLoop n start s).Ends NotNan := by
  cases n with
  | zero => exact ho
  | succ n =>
    rw [pollLoop, completeBody_of_continuous hm, Run.andThen_done, if_pos rfl]
    exact readTcValue_notNan s

/-- Settles O44: no body but that of READTC in OneShot comes out with NaN, and a poll does so only at its timeout
test. -/
theorem timeoutIsNeverEarly : Obligations.TimeoutIsNeverEarly := by
  refine ⟨fun i s t h hr => ?_, fun s t l start hseq hl ho h hr => ?_⟩
  · by_cases hi : i = .readtc
    · subst hi
      by_cases hm : s.mode = some .oneShot
      · exact ⟨rfl, hm, exec_readtc_polled hm h hr⟩
      · have hbody := readTcValue_notNan (accept .readtc s)
        rw [← readTcBody_of_ne_oneShot (s := accept .readtc s) hm] at hbody
        obtain ⟨_, hne, -⟩ := exec_of_result h hr hbody
        exact absurd rfl hne
    · obtain ⟨_, hne, -⟩ := exec_of_result h hr (body_notNan hi _)
      exact absurd rfl hne
  · by_cases hm : s.mode = some .continuous
    · obtain ⟨-, rfl⟩ := step_of_result hseq hl ho h hr
      obtain ⟨_, hne, -⟩ := finish_of_result (pollLoop_notNan_of_continuous hm ho) hr
      exact absurd rfl hne
    · exact step_polled hm hseq hl ho h hr

/-- Settles O45: a poll comes out with a value only after a check that read 1SHOT = 0. -/
theorem valueFollowsCompletedCheck : Obligations.ValueFollowsCompletedCheck :=
  ⟨fun _ _ _ hm h hr => exec_readtc_polled hm h hr,
    fun _ _ _ _ _ hm hseq hl ho h hr => step_polled (ne_continuous_of_oneShot hm) hseq hl ho h hr⟩

end Sys2Proof.Machine
end

section
/-! PROOFS. READTC's poll under CHIP_RESULT_VALID (43_conversion_mode.md R760): which of the checks reads 1SHOT = 0, and
what the value's read then brings, depends on the agents outside the FDC alone. -/

namespace Sys2Proof.Machine

/-! ### States in which the other agents do the same -/

/-- `u` is `s` but for the sequencer, the outcome and the wire, which no agent outside the FDC looks at (log 16). -/
def SameAgents (s u : State) : Prop :=
  ∃ (q : Seq) (o : Option CommandOutcome) (w : List Event), u = { s with seq := q, outcome := o, wire := w }

section
variable {s u : State} (h : SameAgents s u)
include h

theorem SameAgents.cfg : u.cfg = s.cfg := by
  obtain ⟨q, o, w, rfl⟩ := h
  rfl

theorem SameAgents.reply (out : List Byte) : u.reply out = s.reply out := by
  obtain ⟨q, o, w, rfl⟩ := h
  rfl

theorem SameAgents.time : u.time = s.time := by
  obtain ⟨q, o, w, rfl⟩ := h
  rfl

theorem SameAgents.exchanged (out received : List Byte) :
    SameAgents (s.exchanged out received) (u.exchanged out received) := by
  obtain ⟨q, o, w, rfl⟩ := h
  exact ⟨_, _, _, State.exchanged_control s q o w out received⟩

theorem SameAgents.polling : SameAgents s u.polling := by
  obtain ⟨q, o, w, rfl⟩ := h
  exact ⟨_, _, _, rfl⟩

theorem SameAgents.nextHead (received : List Byte) : SameAgents (s.pollPass received) (u.nextHead received) := by
  obtain ⟨q, o, w, rfl⟩ := h
  obtain ⟨q', w', hpass⟩ := State.pollPass_control s q o w received
  rw [State.nextHead, hpass]
  exact ⟨_, _, _, rfl⟩

end

theorem sameAgents_accept (i : Instr) (s : State) : SameAgents s (accept i s) := ⟨_, _, _, rfl⟩

/-! ### The poll, pass by pass -/

/-- A poll whose passes the other agents let go on is where they lead to, with so many checks fewer to make. -/
theorem pollLoop_of_reaches {start n : Nat} {s x u : State} (h : PollReaches start n s x) (hs : SameAgents s u)
    (hm : u.mode ≠ some .continuous) : ∃ y new k, SameAgents x y ∧ Reached u new k y ∧
      ∀ m, pollLoop (n + m) start u = pollLoop m start y := by
  induction h generalizing u with
  | here s => exact ⟨u, [], 0, hs, .refl u, fun m => by rw [Nat.zero_add]⟩
  | @again n s x b v reply pending inTime _ ih =>
    have hpass := reached_nextHead [b, v] u
    obtain ⟨y, new, k, hy, hreached, hrun⟩ := ih (hs.nextHead [b, v]) (hpass.control.1 ▸ hm)
    refine ⟨y, _, _, hy, hpass.trans hreached, fun m => ?_⟩
    rw [← hs.cfg, ← hs.reply] at reply
    rw [← hs.cfg, ← (hs.exchanged _ _).time] at inTime
    rw [Nat.add_right_comm, pollLoop_of_pending hm reply (hs.cfg ▸ pending) inTime, hrun]

/-- The value of the conversion is delivered at the check that first reads 1SHOT = 0 (R741, R760). -/
theorem pollLoop_of_chipResult {start n : Nat} {s x u : State} {d0 w : Byte} {tc : BitVec 24} {cj : BitVec 16}
    (h : PollReaches start n s x) (hs : SameAgents s u) (hm : u.mode = some .oneShot) (hc : u.cfg.wellFormed = true)
    (hn : n < pollBudget u.cfg) (hcheck : x.reply (checkFrame u.cfg) = some [d0, w])
    (hw : oneShotSet u.cfg w = false) (hvalid : ChipResultValid (x.exchanged (checkFrame u.cfg) [d0, w]) tc cj) :
    ∃ t new k, pollLoop (pollBudget u.cfg) start u = .done (.temperature (.value (decodeTc tc))) t ∧
      Reached u new k t := by
  obtain ⟨y, new, k, hxy, hreached, hrun⟩ := pollLoop_of_reaches h hs (ne_continuous_of_oneShot hm)
  obtain ⟨m, hm'⟩ := Nat.exists_eq_add_of_lt hn
  obtain ⟨b, htc⟩ := hvalid.tcRead
  rw [State.exchanged_cfg, ← hxy.cfg, hreached.cfg, ← (hxy.exchanged _ _).reply] at htc
  rw [← hxy.reply, ← hreached.cfg] at hcheck
  rw [← hreached.cfg] at hc hw htc
  obtain ⟨t, hend, hvalue⟩ := pollLoop_of_value (n := m) (start := start)
    (hreached.control.1 ▸ ne_continuous_of_oneShot hm) hcheck hc hw htc
  rw [← u24_eq_append, u24_extract] at hend
  exact ⟨t, _, _, by rw [hm', Nat.add_assoc, hrun, hend], hreached.trans hvalue⟩

/-- With nothing offered a step goes on with a poll that was left at its loop head (logs 1 and 20). -/
theorem step_of_pollHead {s : State} {l : Locals} {start : Nat} (hf : s.fault = none) (hin : s.inputs = [])
    (hseq : s.seq = .busy .readtc pollHead l) (hl : l.start = some start) :
    step s = .next (finish (pollLoop (pollBudget s.cfg) start s)) := by
  rw [← resume_of_pollHead hf hseq hl]
  simp [step, nextStep, hin, hseq]

/-- So does READTC's own poll, after an answered trigger. -/
theorem exec_readtc_of_chipResult {s x : State} {n : Nat} {tc : BitVec 24} {cj : BitVec 16} {b0 v d0 w : Byte}
    {r : List Byte} (hs : Operational s) (hm : s.mode = some .oneShot) (hc : s.cfg.wellFormed = true)
    (hread : s.reply (checkFrame s.cfg) = some [b0, v])
    (hwrite : (s.exchanged (checkFrame s.cfg) [b0, v]).reply (triggerFrame s.cfg v) = some r)
    (h : PollReaches (s.triggered b0 v r).time n (s.triggered b0 v r) x) (hn : n < pollBudget s.cfg)
    (hcheck : x.reply (checkFrame s.cfg) = some [d0, w]) (hw : oneShotSet s.cfg w = false)
    (hvalid : ChipResultValid (x.exchanged (checkFrame s.cfg) [d0, w]) tc cj) :
    ∃ t, exec .readtc s = .next t ∧ Delivered s t (.temperature (.value (decodeTc tc))) ∧ SameControl s t := by
  have hread' := (sameAgents_accept .readtc s).exchanged (checkFrame s.cfg) [b0, v]
  have hagents : SameAgents (s.triggered b0 v r) ((accept .readtc s).triggered b0 v r) := hread'.exchanged _ r
  have hpoll := (reached_triggered (accept .readtc s) b0 v r).trans (reached_polling _)
  have hcfg : ((accept .readtc s).triggered b0 v r).polling.cfg = s.cfg := hpoll.cfg
  rw [← hread'.reply] at hwrite
  obtain ⟨t, new, k, hend, ht⟩ := pollLoop_of_chipResult (cj := cj) h hagents.polling (hpoll.control.1.trans hm)
    (hcfg ▸ hc) (hcfg ▸ hn) (hcfg ▸ hcheck) (hcfg ▸ hw) (hcfg ▸ hvalid)
  have hexec := exec_readtc hs
  rw [readTcBody_of_replies (s := accept .readtc s) hm hread hwrite, hagents.time, accept_cfg, ← hcfg, hend,
    finish_done] at hexec
  have hreached := hpoll.trans ht
  exact ⟨_, hexec, hreached.delivered hs.1 _, hreached.control⟩

/-- Settles O47: the poll, READTC's own or one left running, goes on as the other agents let it, to the check that reads
1SHOT = 0. -/
theorem pollReturnsChipResult : Obligations.PollReturnsChipResult := by
  intro s x n tc cj d0 w hf hc hm _ _ hn hcheck hw hvalid
  refine ⟨fun hidle hbegun b0 v r hread hwrite hreaches => ?_, fun l start hin hseq hl hreaches => ?_⟩
  · exact exec_readtc_of_chipResult ⟨hf, hidle, hbegun⟩ hm hc hread hwrite hreaches hn hcheck hw hvalid
  · obtain ⟨t, new, k, hend, ht⟩ :=
      pollLoop_of_chipResult hreaches ⟨s.seq, s.outcome, s.wire, rfl⟩ hm hc hn hcheck hw hvalid
    have hstep := step_of_pollHead hf hin hseq hl
    rw [hend, finish_done] at hstep
    exact ⟨_, hstep, ht.delivered hf _, ht.control⟩

end Sys2Proof.Machine
end

section
/-! PROOFS. A poll ends (43_conversion_mode.md R742): the sleeps alone bring the elapsed time past 250 ms within the
number of checks one step makes, where the count does not wrap past the start time. -/

namespace Sys2Proof.Machine

/-! ### The elapsed time -/

/-- The elapsed time is what has been added to the start time, short of a whole turn of the count (R740). -/
theorem elapsed_of_modEq {c : Config} {start e t : Nat} (h : t ≡ start + e [MOD 2 ^ c.timeWidth])
    (he : e < 2 ^ c.timeWidth) : elapsed c start (t % 2 ^ c.timeWidth) = e := by
  have hle : start % 2 ^ c.timeWidth ≤ 2 ^ c.timeWidth := (Nat.mod_lt _ (by positivity)).le
  have hcongr : t % 2 ^ c.timeWidth + (2 ^ c.timeWidth - start % 2 ^ c.timeWidth) ≡ e [MOD 2 ^ c.timeWidth] :=
    calc t % 2 ^ c.timeWidth + (2 ^ c.timeWidth - start % 2 ^ c.timeWidth)
        ≡ (start % 2 ^ c.timeWidth + e) + (2 ^ c.timeWidth - start % 2 ^ c.timeWidth) [MOD 2 ^ c.timeWidth] :=
          ((Nat.mod_modEq t _).trans (h.trans ((Nat.mod_modEq start _).symm.add_right e))).add_right _
      _ = e + 2 ^ c.timeWidth := by omega
      _ ≡ e [MOD 2 ^ c.timeWidth] := Nat.add_modEq_right
  rw [elapsed, hcongr, Nat.mod_eq_of_lt he]

/-- The milliseconds of the next `n` answers. -/
def State.msSum (s : State) (n : Nat) : Nat := ((List.range n).map fun k => (s.drawAt k).ms).sum

theorem Reached.msSum {s u : State} {new : List Event} {k : Nat} (h : Reached s new k u) (n : Nat) :
    s.msSum (k + n) = s.msSum k + u.msSum n := by
  simp [State.msSum, List.range_add, Function.comp_def, h.drawAt]

theorem State.msSum_two (s : State) : s.msSum 2 = (s.drawAt 0).ms + (s.drawAt 1).ms := by
  simp [State.msSum, List.range_succ]

theorem State.drawAt_timed (s : State) (k : Nat) : s.timed.drawAt k = s.drawAt k := rfl

section
variable {s : State} {start e : Nat} (h : s.now ≡ start + e [MOD 2 ^ s.cfg.timeWidth])
include h

theorem elapsed_at_check (received : List Byte) (he : e + (s.drawAt 0).ms < 2 ^ s.cfg.timeWidth) :
    elapsed s.cfg start (s.checkTime received) = e + (s.drawAt 0).ms := by
  rw [State.checkTime, State.time, State.exchanged_now, State.exchanged_cfg]
  exact elapsed_of_modEq ((Nat.mod_modEq _ _).trans ((h.add_right _).trans (by rw [Nat.add_assoc]; rfl))) he

/-- A pass takes the time of its check, POLL_MS, and what its sleep takes beyond that. -/
theorem nextHead_now (received : List Byte) :
    (s.nextHead received).now ≡ start + (e + s.msSum 2 + s.cfg.pollMs) [MOD 2 ^ s.cfg.timeWidth] := by
  have hnow : (s.nextHead received).now = ((s.now + (s.drawAt 0).ms) % 2 ^ s.cfg.timeWidth +
      (s.cfg.pollMs + (s.drawAt 1).ms)) % 2 ^ s.cfg.timeWidth := by
    simp [State.nextHead, State.pollPass, State.draw, State.drawAt_timed]
  rw [hnow, State.msSum_two]
  calc _ ≡ (s.now + (s.drawAt 0).ms) + (s.cfg.pollMs + (s.drawAt 1).ms) [MOD 2 ^ s.cfg.timeWidth] :=
        (Nat.mod_modEq _ _).trans ((Nat.mod_modEq _ _).add_right _)
    _ ≡ (start + e + (s.drawAt 0).ms) + (s.cfg.pollMs + (s.drawAt 1).ms) [MOD 2 ^ s.cfg.timeWidth] :=
        (h.add_right _).add_right _
    _ = start + (e + ((s.drawAt 0).ms + (s.drawAt 1).ms) + s.cfg.pollMs) := by omega

end

/-! ### How many checks -/

/-- How many of these events are frames of a completion check. -/
def checks (c : Config) (events : List Event) : Nat :=
  (events.filter fun e => e.frame == some (checkFrame c)).length

theorem checks_append (c : Config) (before after : List Event) :
    checks c (before ++ after) = checks c before + checks c after := by
  simp [checks]

theorem checks_passEvents (received : List Byte) (s : State) : checks s.cfg (passEvents received s) = 1 := by
  simp [checks, passEvents, Event.frame]

theorem checks_value (c : Config) (received : List Byte) : checks c [.exchanged (valueFrame c) received] = 0 := by
  simp [checks, Event.frame]

theorem regByte_or_bit7_ne (c : Config) (r : Reg) : regByte c r ||| 0x80#8 ≠ regByte c r := by
  rw [← regByte_masked]
  generalize regByte c r = a
  revert a
  decide

/-! ### How a poll ends -/

/-- From `s` a command has sent these events and ended in a temperature, or in the loss of its last frame, for which one
of the next `bound` answers was drawn. -/
inductive Concluded (s : State) (bound : Nat) : List Event → Run Result → Prop
  | delivered {new : List Event} {k : Nat} {x : Temp} {u : State} (reached : Reached s new k u) :
      Concluded s bound new (.done (.temperature x) u)
  | lost {new : List Event} {k j : Nat} {out : List Byte} {u : State} (reached : Reached s new k u) (hk : k < bound)
      (noReply : u.reply out = none) :
      Concluded s bound (new ++ [.failed out]) (.raised (raise (.transportFail out j) (u.lostFrame out)))

theorem Concluded.prepend {s u : State} {before new : List Event} {k bound : Nat} {run : Run Result}
    (hs : Reached s before k u) (h : Concluded u bound new run) : Concluded s (k + bound) (before ++ new) run := by
  cases h with
  | delivered reached => exact .delivered (hs.trans reached)
  | lost reached hk noReply =>
    rw [← List.append_assoc]
    exact .lost (hs.trans reached) (Nat.add_lt_add_left hk k) noReply

/-- READTC's last read is one frame, and no check. -/
theorem readTcValue_concluded {s : State} (hc : s.cfg.wellFormed = true) :
    ∃ new, Concluded s 1 new (readTcValue s) ∧ checks s.cfg new = 0 := by
  rcases readTcValue_cases s with ⟨hl, -⟩ | ⟨hr, j, hrun⟩ | ⟨e0, e1, e2, e3, -, hrun⟩
  · exact absurd (readLegal_ltcbh hc) hl
  · rw [hrun]
    exact ⟨_, .lost (reached_sequenced _ s) (by decide) hr, by simp [checks, Event.frame]⟩
  · rw [hrun]
    exact ⟨_, .delivered (reached_value [e0, e1, e2, e3] s), checks_value ..⟩

theorem Concluded.mono {s : State} {bound bound' : Nat} {new : List Event} {run : Run Result}
    (h : Concluded s bound new run) (hle : bound ≤ bound') : Concluded s bound' new run := by
  cases h with
  | delivered reached => exact .delivered reached
  | lost reached hk noReply => exact .lost reached (hk.trans_le hle) noReply

/-- A pass is the poll's last, with one check, or goes on in time to the next loop head. -/
theorem pollLoop_pass {n start : Nat} {s : State} (hm : s.mode ≠ some .continuous) (hc : s.cfg.wellFormed = true) :
    (∃ new, Concluded s 2 new (pollLoop (n + 1) start s) ∧ checks s.cfg new ≤ 1) ∨
    ∃ received, elapsed s.cfg start (s.checkTime received) ≤ timeoutMs ∧
      pollLoop (n + 1) start s = pollLoop n start (s.nextHead received) := by
  rcases check_cases start s with h | ⟨b, v, h, hv | ⟨hv, hlate | hin⟩⟩
  · rw [pollLoop_of_lost hm h]
    exact .inl ⟨_, .lost (.refl s) (by decide) h, by simp [checks, Event.frame]⟩
  · have hcheck := reached_exchanged (checkFrame s.cfg) [b, v] s
    obtain ⟨new, hvalue, hnone⟩ := readTcValue_concluded (hcheck.cfg ▸ hc)
    rw [pollLoop_of_complete hm h hv]
    refine .inl ⟨_, hvalue.prepend hcheck, ?_⟩
    rw [checks_append, ← hcheck.cfg, hnone]
    simp [checks, Event.frame]
  · rw [pollLoop_of_late hm h hv hlate]
    refine .inl ⟨_, .delivered ((reached_exchanged (checkFrame s.cfg) [b, v] s).trans (reached_timed _)), ?_⟩
    simp [checks, Event.frame]
  · exact .inr ⟨[b, v], hin, pollLoop_of_pending hm h hv hin⟩

/-- A poll that still may make `n + 1` checks, `e` ms after its start, ends within them where `n` sleeps bring it past
250 ms (R742). -/
theorem pollLoop_concluded {n start e : Nat} {s : State} (hm : s.mode ≠ some .continuous) (hc : s.cfg.wellFormed = true)
    (hnow : s.now ≡ start + e [MOD 2 ^ s.cfg.timeWidth]) (hlong : timeoutMs < e + n * s.cfg.pollMs)
    (hwrap : e + s.msSum (2 * n + 1) + n * s.cfg.pollMs < 2 ^ s.cfg.timeWidth) :
    ∃ new, Concluded s (2 * (n + 1)) new (pollLoop (n + 1) start s) ∧ checks s.cfg new ≤ n + 1 := by
  induction n generalizing s e with
  | zero =>
    rcases pollLoop_pass (n := 0) (start := start) hm hc with ⟨new, hnew, hchecks⟩ | ⟨received, hin, -⟩
    · exact ⟨new, hnew, hchecks⟩
    · have hone : s.msSum (2 * 0 + 1) = (s.drawAt 0).ms := by simp [State.msSum]
      rw [elapsed_at_check hnow received (by omega)] at hin
      omega
  | succ n ih =>
    rcases pollLoop_pass (n := n + 1) (start := start) hm hc with ⟨new, hnew, hchecks⟩ | ⟨received, -, hrun⟩
    · exact ⟨new, hnew.mono (by omega), by omega⟩
    · have hpass := reached_nextHead received s
      have hcfg := hpass.cfg
      have hsum : s.msSum (2 * (n + 1) + 1) = s.msSum 2 + (s.nextHead received).msSum (2 * n + 1) := by
        rw [← hpass.msSum, show 2 * (n + 1) + 1 = 2 + (2 * n + 1) by omega]
      rw [hsum] at hwrap
      rw [Nat.succ_mul n s.cfg.pollMs] at hlong hwrap
      obtain ⟨new, hnew, hchecks⟩ := ih (s := s.nextHead received) (e := e + s.msSum 2 + s.cfg.pollMs)
        (hpass.control.1 ▸ hm) (hcfg ▸ hc) (hcfg ▸ nextHead_now hnow received) (by rw [hcfg]; omega)
        (by rw [hcfg]; omega)
      rw [hcfg] at hchecks
      refine ⟨_, hrun ▸ (hnew.prepend hpass).mono (by omega), ?_⟩
      rw [checks_append, checks_passEvents]
      omega

/-- The sleeps between the checks of one step take more than 250 ms (R742, log 1). -/
theorem timeoutMs_lt_sleeps {c : Config} (hc : c.wellFormed = true) :
    timeoutMs < (timeoutMs / c.pollMs + 1) * c.pollMs := by
  rw [Nat.mul_comm]
  exact Nat.lt_mul_div_succ timeoutMs (Config.wellFormed_time hc).1

/-- READTC in OneShot ends in this one step (log 1), with one check's frame more than its poll's, the trigger's read. -/
theorem readTcBody_concluded {s : State} (hm : s.mode = some .oneShot) (hc : s.cfg.wellFormed = true)
    (hwrap : s.msSum (2 * pollBudget s.cfg + 1) + pollBudget s.cfg * s.cfg.pollMs < 2 ^ s.cfg.timeWidth) :
    ∃ new, Concluded s (2 * pollBudget s.cfg + 2) new (readTcBody s) ∧ checks s.cfg new ≤ pollBudget s.cfg + 1 := by
  rcases readTcBody_cases hm with ⟨hr, j, h⟩ | ⟨b, v, ⟨hr, j, h⟩ | ⟨r, u, h, hpoll⟩⟩ <;> rw [h]
  · exact ⟨_, .lost (.refl s) (by omega) hr, by simp [checks, Event.frame]⟩
  · exact ⟨_, .lost (reached_exchanged (checkFrame s.cfg) [b, v] s) (by omega) hr, by
      simp [checks, Event.frame, regByte_or_bit7_ne]⟩
  · have hcfg := hpoll.cfg
    have hlong := timeoutMs_lt_sleeps hc
    obtain ⟨n, hn⟩ : ∃ n, timeoutMs / s.cfg.pollMs + 1 = n := ⟨_, rfl⟩
    have hbudget : pollBudget s.cfg = n + 1 := congrArg (· + 1) hn
    have hsum : s.msSum (2 * (n + 1) + 1) = s.msSum 2 + u.msSum (2 * n + 1) := by
      rw [← hpoll.msSum, show 2 * (n + 1) + 1 = 2 + (2 * n + 1) by omega]
    rw [hbudget, hsum, Nat.succ_mul n s.cfg.pollMs] at hwrap
    rw [hn] at hlong
    obtain ⟨new, hnew, hchecks⟩ := pollLoop_concluded (n := n) (start := u.time) (e := 0)
      (hpoll.control.1 ▸ ne_continuous_of_oneShot hm) (hcfg ▸ hc) (Nat.mod_modEq _ _).symm (by rw [hcfg]; omega)
      (by rw [hcfg]; omega)
    rw [hcfg] at hchecks
    refine ⟨_, hbudget ▸ (hnew.prepend hpoll).mono (by omega), ?_⟩
    rw [checks_append, hbudget]
    have hfirst : checks s.cfg
        [.exchanged (checkFrame s.cfg) [b, v], .exchanged (triggerFrame s.cfg v) r, .timed u.time] = 1 := by
      simp [checks, Event.frame, regByte_or_bit7_ne]
    omega

/-- How such a command leaves the machine (60_exceptions.md R820). -/
theorem Concluded.finished {s : State} {bound : Nat} {new : List Event} {run : Run Result}
    (h : Concluded s bound new run) (hf : s.fault = none) :
    (finish run).seq = .idle ∧ (finish run).wire = s.wire ++ new ∧
      ((∃ r, Delivered s (finish run) (.temperature r)) ∨ ∃ out k, new.getLast? = some (.failed out) ∧
        (finish run).fault = some (.transportFail out k) ∧
        (finish run).outcome = some (.fault (.transportFail out k))) ∧
      ((∀ k < bound, wired (s.drawAt k) = true) → ∃ r, Delivered s (finish run) (.temperature r)) := by
  cases h with
  | delivered reached =>
    have hdelivered := reached.delivered hf
    exact ⟨rfl, reached.wire, .inl ⟨_, hdelivered _⟩, fun _ => ⟨_, hdelivered _⟩⟩
  | lost reached hk noReply =>
    refine ⟨rfl, by simp [reached.wire], .inr ⟨_, _, by simp, rfl, rfl⟩, fun hwired => ?_⟩
    obtain ⟨first, second, hreply⟩ := State.reply_of_wired (by rw [State.draw, reached.drawAt]; exact hwired _ hk) _
    rw [noReply] at hreply
    cases hreply

/-- Settles O46: READTC ends in this step, since the sleeps between the checks it may make would take more than 250 ms;
with every answer wired no frame is lost. -/
theorem pollEndsWithinBound : Obligations.PollEndsWithinBound := by
  intro s hs hc hm hwrap
  obtain ⟨new, hnew, hchecks⟩ := readTcBody_concluded (s := accept .readtc s) hm hc hwrap
  obtain ⟨hseq, hwire, hend, hwired⟩ := hnew.finished hs.ready.1
  exact ⟨_, new, exec_readtc hs, hseq, exec_readtc_sameControl (exec_readtc hs), hwire, hchecks, hend, hwired⟩

end Sys2Proof.Machine
end

section
/-! PROOFS. How the body of a command runs, exchange by exchange (60_exceptions.md R820, R871): the lengths of the
frames it sends as long as they are answered, and the four ways it can stop. -/

namespace Sys2Proof.Machine

/-! ### The course of a command -/

/-- The sequencer goes on from `p` to `q`: a running command still runs, and has made `n` exchanges more. -/
def Seq.Counts (n : Nat) (p q : Seq) : Prop := p ≠ .idle → q ≠ .idle ∧ q.exchanges = p.exchanges + n

theorem Seq.Counts.trans {n₁ n₂ : Nat} {p q r : Seq} (h₁ : Seq.Counts n₁ p q) (h₂ : Seq.Counts n₂ q r) :
    Seq.Counts (n₁ + n₂) p r := by
  intro hp
  obtain ⟨hq, hn₁⟩ := h₁ hp
  obtain ⟨hr, hn₂⟩ := h₂ hq
  exact ⟨hr, by rw [hn₂, hn₁, Nat.add_assoc]⟩

theorem Seq.counts_tick (q : Seq) : Seq.Counts 0 q q.tick := by
  cases q <;> simp [Seq.Counts, Seq.tick, Seq.exchanges]

theorem Seq.counts_goto (q : Seq) (k : Nat) : Seq.Counts 0 q (q.goto k) := by
  cases q <;> simp [Seq.Counts, Seq.goto, Seq.exchanges]

theorem Seq.counts_started (q : Seq) (t : Nat) : Seq.Counts 0 q.tick (q.started t) := by
  cases q <;> simp [Seq.Counts, Seq.tick, Seq.started, Seq.exchanges]

theorem Seq.counts_exchanged (q : Seq) (data : List Byte) : Seq.Counts 1 q (q.exchanged data) := by
  cases q <;> simp [Seq.Counts, Seq.exchanged, Seq.exchanges]

/-- How a command's body, begun in `start`, stops in `s` when it still has frames of these lengths to send: the next is
lost; a fault other than TransportFail is raised, which a chip the spec describes allows only at the body's beginning; a
result comes out, the mirror or `begun` perhaps written; or the poll is left running (log 1). -/
inductive Stops (start s : State) : List Nat → Run Result → Prop
  | lost {out : List Byte} {lengths : List Nat} (reply : s.reply out = none) :
      Stops start s (out.length :: lengths)
        (.raised (raise (.transportFail out (s.seq.exchanges + 1)) (s.lostFrame out)))
  | refused {f : FdcFault} {lengths : List Nat} (other : faultCode f ≠ 4)
      (first : s.cfg.wellFormed = true → s = start ∧ lengths = []) : Stops start s lengths (.raised (raise f s))
  | delivers {r : Result} {t : State} (wire : t.wire = s.wire) (fault : t.fault = s.fault) :
      Stops start s [] (.done r t)
  | left : Stops start s [] (.waiting s)

/-- How a command's body, begun in `start`, runs on from `s`: it sends frames of these lengths as long as they are
answered, and what is after them is left open. -/
inductive Course (start : State) : State → List Nat → Run Result → Prop
  | stops {s : State} {lengths : List Nat} {run : Run Result} (h : Stops start s lengths run) :
      Course start s lengths run
  | answered {s : State} {out received : List Byte} {lengths : List Nat} {run : Run Result}
      (reply : s.reply out = some received) (rest : Course start (s.exchanged out received) lengths run) :
      Course start s (out.length :: lengths) run
  | sequenced {s : State} {q : Seq} {lengths : List Nat} {run : Run Result} (counts : Seq.Counts 0 s.seq q)
      (rest : Course start { s with seq := q } lengths run) :
      Course start s lengths run
  | timed {s : State} {lengths : List Nat} {run : Run Result} (rest : Course start s.timed lengths run) :
      Course start s lengths run
  | opened {s : State} {lengths : List Nat} {run : Run Result} (rest : Course start s.opened lengths run) :
      Course start s [] run
  | slept (ms : Nat) {s : State} {lengths : List Nat} {run : Run Result}
      (rest : Course start (sleep ms s) lengths run) : Course start s [] run
  | further {s : State} {lengths : List Nat} {run : Run Result} (rest : Course start s lengths run) :
      Course start s [] run

/-! ### The framer's operations, by what follows them

A body is run on from operation to operation: each lemma asks for the course of what follows its operation. -/

section
variable {start s : State} {lengths : List Nat}

theorem course_readReg {a : Byte} {n : Nat} {g : List Byte → State → Run Result}
    (legal : s.cfg.wellFormed = true → ReadLegal a n)
    (hg : ∀ received, Course start (s.exchanged (readFrame s.cfg a n) received) lengths
      (g (received.drop 1) (s.exchanged (readFrame s.cfg a n) received))) :
    Course start s ((n + 1) :: lengths) ((readReg a n s).andThen g) := by
  have hlen : n + 1 = (readFrame s.cfg a n).length := by simp [readFrame]
  rcases readReg_cases a n s with ⟨hl, h⟩ | ⟨-, ⟨received, hr, h⟩ | ⟨hr, h⟩⟩ <;> rw [h]
  · exact .stops (.refused (by simp [faultCode]) fun hc => absurd ((legal hc).fits) (by simp [hl]))
  · rw [hlen]
    exact .answered hr (hg received)
  · rw [hlen]
    exact .stops (.lost hr)

theorem course_writeReg {a d : Byte} {g : Unit → State → Run Result} (legal : (a &&& 0x7F#8).toNat < 16)
    (hg : ∀ received, Course start (s.exchanged (writeFrame a d) received) lengths
      (g () (s.exchanged (writeFrame a d) received))) :
    Course start s (2 :: lengths) ((writeReg a d s).andThen g) := by
  rcases writeReg_cases a d s with ⟨hl, -⟩ | ⟨-, ⟨received, hr, h⟩ | ⟨hr, h⟩⟩
  · omega
  · rw [h]
    exact .answered (out := writeFrame a d) hr (hg received)
  · rw [h]
    exact .stops (.lost (out := writeFrame a d) hr)

theorem course_rmw {a m x : Byte} {g : Unit → State → Run Result} (legal : (a &&& 0x7F#8).toNat < 16)
    (hg : ∀ u, SameControl s u → Course start u lengths (g () u)) :
    Course start s (2 :: 2 :: lengths) ((rmw a m x s).andThen g) := by
  rw [rmw, Run.andThen_assoc]
  refine course_readReg (fun _ => readLegal_one (Nat.le_of_lt_succ legal)) fun received => ?_
  exact course_writeReg legal fun received' => hg _ (by simp [SameControl])

/-! ### The operations on a named register -/

theorem course_memRead_one {r : Reg} {g : List Byte → State → Run Result}
    (hg : ∀ data u, SameControl s u → Course start u lengths (g data u)) :
    Course start s (2 :: lengths) ((memRead r 1 s).andThen g) :=
  course_readReg (fun _ => readLegal_regByte s.cfg r) fun _ => hg _ _ (by simp [SameControl])

theorem course_memWrite {r : Reg} {v : Byte} {g : Unit → State → Run Result}
    (hg : ∀ u, Course start u lengths (g () u)) : Course start s (2 :: lengths) ((memWrite r v s).andThen g) :=
  course_writeReg (regByte_masked_lt s.cfg r) fun _ => hg _

theorem course_rmwReg {r : Reg} {m x : Byte} {g : Unit → State → Run Result}
    (hg : ∀ u, SameControl s u → Course start u lengths (g () u)) :
    Course start s (2 :: 2 :: lengths) ((rmwReg r m x s).andThen g) := course_rmw (regByte_masked_lt s.cfg r) hg

theorem course_setModeBody {m : Mode} {g : Unit → State → Run Result}
    (hg : ∀ u, Course start u lengths (g () (u.setMode m))) :
    Course start s (2 :: 2 :: lengths) ((setModeBody m s).andThen g) := by
  rw [setModeBody, Run.andThen_assoc]
  exact course_rmwReg fun u _ => hg u

theorem course_triggerBody {g : Unit → State → Run Result}
    (hg : ∀ u, SameControl s u → Course start u lengths (g () u)) :
    Course start s (if s.mode = some .continuous then lengths else 2 :: 2 :: lengths) ((triggerBody s).andThen g) := by
  unfold triggerBody
  split
  · exact hg s (SameControl.refl s)
  · exact course_rmwReg hg

theorem course_completeBody {g : Bool → State → Run Result}
    (hg : ∀ complete u, SameControl s u → Course start u lengths (g complete u)) :
    Course start s (if s.mode = some .continuous then lengths else 2 :: lengths) ((completeBody s).andThen g) := by
  unfold completeBody
  split
  · exact hg true s (SameControl.refl s)
  · rw [Run.andThen_assoc]
    exact course_memRead_one fun data u hu => hg _ u hu

end

/-! ### The bodies of the commands -/

/-- A result comes out where the body has come to. -/
theorem course_done (start : State) (r : Result) (s : State) : Course start s [] (.done r s) :=
  .stops (.delivers rfl rfl)

/-- READTC's last read (43_conversion_mode.md R740). -/
theorem course_readTcValue (start s : State) : Course start s [4] (readTcValue s) :=
  .sequenced (Seq.counts_goto s.seq tcReadStep)
    (course_readReg (fun hc => readLegal_ltcbh hc) fun _ => course_done _ _ _)

/-- A pass of the poll is its check, where the mode asks for one, and what follows that, which is left open. -/
theorem course_pollLoop_succ {start : State} {n since : Nat} (rest : ∀ u, Course start u [] (pollLoop n since u))
    (s : State) : Course start s (if s.mode = some .continuous then [] else [2]) (pollLoop (n + 1) since s) := by
  refine course_completeBody fun complete u _ => ?_
  dsimp only
  split
  · exact .further (course_readTcValue start u)
  · split
    · exact .timed (course_done start _ _)
    · exact .timed (.slept _ (.sequenced (Seq.counts_goto _ pollHead) (rest _)))

theorem course_pollLoop (start : State) (n since : Nat) (s : State) : Course start s [] (pollLoop n since s) := by
  induction n generalizing s with
  | zero => exact .stops .left
  | succ n ih => exact .further (course_pollLoop_succ ih s)

/-- READTC's trigger and first check in OneShot, its one read in the other modes (43_conversion_mode.md R740). -/
theorem course_readTcBody (start s : State) :
    Course start s (if s.mode = some .oneShot then [2, 2, 2] else [4]) (readTcBody s) := by
  split
  · rename_i hm
    rw [readTcBody_of_oneShot hm, triggerBody_of_ne_continuous (ne_continuous_of_oneShot hm)]
    refine course_rmwReg fun u hu => .timed (.sequenced (Seq.counts_started u.seq u.time) ?_)
    have hmode : u.polling.mode = some .oneShot := hu.1.trans hm
    have hcheck := course_pollLoop_succ (course_pollLoop start (timeoutMs / u.cfg.pollMs + 1) u.time) u.polling
    rwa [if_neg (ne_continuous_of_oneShot hmode)] at hcheck
  · rename_i hm
    rw [readTcBody_of_ne_oneShot hm]
    exact course_readTcValue start s

/-- BEGIN from its `Open` on (42_init_and_config.md R600, R810). -/
theorem course_beginBody (start s : State) :
    Course start s.opened (if s.draw.granted then [2, 2, 2, 2, 2, 2, 2, 2] else []) (beginBody s) := by
  rw [beginBody, openTransport, Run.andThen_done]
  split
  · refine course_memWrite fun u => ?_
    refine course_rmwReg fun u _ => ?_
    refine course_memWrite fun u => ?_
    refine course_rmwReg fun u _ => ?_
    exact course_setModeBody fun u => .stops (.delivers rfl rfl)
  · exact .stops (.delivers rfl rfl)

/-- The four write frames of SETTCTHR (42_init_and_config.md R650). -/
theorem course_writeTcThresholds (start : State) (lo hi : BitVec 16) (s : State) :
    Course start s [2, 2, 2, 2] (writeTcThresholds lo hi s) :=
  course_memWrite fun _ => course_memWrite fun _ => course_memWrite fun _ => course_memWrite fun u =>
    course_done start .unit u

/-- A fault other than TransportFail that a body raises at its beginning. -/
theorem course_refused {f : FdcFault} (h : faultCode f ≠ 4) (s : State) : Course s s [] (.raised (raise f s)) :=
  .stops (.refused h fun _ => ⟨rfl, rfl⟩)

/-- A read of the framer (40_register_access.md R411 to R413). -/
theorem course_frameRead {n : Nat} (hpos : 1 ≤ n) (hmax : n ≤ 3) (a : Byte) (value : List Byte → Result) (s : State) :
    Course s s (if readFits (a &&& 0x7F#8) n then [n + 1] else [])
      ((readReg a n s).andThen fun data u => .done (value data) u) := by
  have hiff : readFits (a &&& 0x7F#8) n = true ↔ (a &&& 0x7F#8).toNat + n ≤ 16 := by simp [readFits, hpos]
  split
  · rename_i hfits
    exact course_readReg (fun _ => ⟨hpos, hmax, hiff.1 hfits⟩) fun _ => course_done s _ _
  · rename_i hfits
    rw [hiff, not_le] at hfits
    rw [readReg_of_illegal hfits]
    exact course_refused (by simp [faultCode]) s

theorem readFits_one_iff (a : Byte) : readFits a 1 = true ↔ a.toNat < 16 := by
  simp only [readFits, le_refl, decide_true, Bool.true_and, decide_eq_true_eq]
  omega

theorem course_wr8 (a d : Byte) (s : State) :
    Course s s (if readFits (a &&& 0x7F#8) 1 then [2] else []) (body (.wr8 a d) s) := by
  rw [body_wr8]
  split
  · rename_i hfits
    exact course_writeReg ((readFits_one_iff _).1 hfits) fun _ => course_done s _ _
  · rename_i hfits
    rw [readFits_one_iff, not_lt] at hfits
    rw [writeReg_of_illegal hfits]
    exact course_refused (by simp [faultCode]) s

theorem course_frameRmw (a m x : Byte) (s : State) :
    Course s s (if readFits (a &&& 0x7F#8) 1 then [2, 2] else []) (body (.rmw a m x) s) := by
  rw [body_rmw]
  split
  · rename_i hfits
    exact course_rmw ((readFits_one_iff _).1 hfits) fun u _ => course_done s _ u
  · rename_i hfits
    rw [readFits_one_iff, not_lt] at hfits
    rw [rmw_of_raised (readReg_of_illegal (by omega))]
    exact course_refused (by simp [faultCode]) s

theorem course_settcthr (flow fhigh : F32) (s : State) :
    Course s s (exchangeLengths (.settcthr flow fhigh) s) (body (.settcthr flow fhigh) s) := by
  simp only [exchangeLengths, body]
  cases encodeTcThreshold flow with
  | none => exact course_refused (by simp [faultCode]) s
  | some lo =>
    cases encodeTcThreshold fhigh with
    | none => exact course_refused (by simp [faultCode]) s
    | some hi => exact course_writeTcThresholds s lo hi s

theorem modeOf_isSome (m : BitVec 2) (h : m ≠ 3) : (modeOf m).isSome = true := by
  revert m; decide

/-- Where the first exchange of a body is made from: for BEGIN after its `Open`. -/
def afterOpen (i : Instr) (s : State) : State := if i = .begin then s.opened else s

/-- What every instruction's body does: the exchanges that `exchangeLengths` names. Mode code 3 has no body
(60_exceptions.md R850). -/
theorem course_body {i : Instr} (hm : i ≠ .setmode 3) (s : State) :
    Course s (afterOpen i s) (exchangeLengths i s) (body i s) := by
  cases i with
  | rd8 a => exact course_frameRead (by decide) (by decide) a (fun data => .data8 (u8 data)) s
  | rd16 a => exact course_frameRead (by decide) (by decide) a (fun data => .data16 (u16 data)) s
  | rd24 a => exact course_frameRead (by decide) (by decide) a (fun data => .data24 (u24 data)) s
  | wr8 a d => exact course_wr8 a d s
  | rmw a m x => exact course_frameRmw a m x s
  | begin => exact course_beginBody s s
  | setmode m =>
    obtain ⟨mode, hmode⟩ := Option.isSome_iff_exists.1 (modeOf_isSome m fun h => hm (congrArg Instr.setmode h))
    rw [body_setmode hmode]
    exact course_setModeBody fun u => .stops (.delivers rfl rfl)
  | getmode => exact course_done s (.mode s.mode) s
  | settctype t => exact course_rmwReg fun u _ => course_done s .unit u
  | gettctype => exact course_memRead_one fun _ u _ => course_done s _ u
  | readfault => exact course_memRead_one fun _ u _ => course_done s _ u
  | trigger => exact course_triggerBody fun u _ => course_done s .unit u
  | convdone => exact course_completeBody fun _ u _ => course_done s _ u
  | readcj => exact course_readReg readLegal_cjth fun _ => course_done s _ _
  | readtc => exact course_readTcBody s s
  | settcthr flow fhigh => exact course_settcthr flow fhigh s
  | setcjthr low high => exact course_memWrite fun _ => course_memWrite fun u => course_done s .unit u
  | setnf f => exact course_rmwReg fun u _ => course_done s .unit u

end Sys2Proof.Machine
end

section
/-! PROOFS. A lost exchange and the other faults (60_exceptions.md R820, R871): what a command has sent up to where it
stops, and what is recorded there. -/

namespace Sys2Proof.Machine

theorem State.answers_of_reply {s : State} {out received : List Byte} (h : s.reply out = some received) :
    answers s.draw out.length = true := by
  by_contra hno
  rw [State.reply_of_not_answers (Bool.eq_false_of_not_eq_true hno)] at h
  cases h

theorem State.not_answers_of_no_reply {s : State} {out : List Byte} (h : s.reply out = none) :
    answers s.draw out.length = false := by
  by_contra hyes
  obtain ⟨received, hr⟩ := State.reply_of_answers (Bool.eq_true_of_not_eq_false hyes)
  rw [h] at hr
  cases hr

/-! ### What a running command has sent -/

/-- The event is no lost frame, and if it is a frame then one the transport answers. -/
def Event.Exchanged (d : Draw) (e : Event) : Prop :=
  ∀ out, e.frame = some out → answers d out.length = true ∧ ∃ received, e = .exchanged out received

/-- So a frame is treated as the transport answers it, and is not lost. -/
theorem Event.Exchanged.as_answered {d : Draw} {e : Event} {out : List Byte} {lost : Prop} (h : e.Exchanged d)
    (hframe : e.frame = some out) : (answers d out.length = true → ∃ received, e = .exchanged out received) ∧
      (answers d out.length = false → lost) := by
  obtain ⟨hanswers, hexchanged⟩ := h out hframe
  exact ⟨fun _ => hexchanged, fun hno => absurd (hanswers.symm.trans hno) nofun⟩

/-- Each frame among these events, sent from `s` on, was exchanged, as the transport answered it. -/
def AllExchanged (s : State) (events : List Event) : Prop :=
  ∀ before e later, events = before ++ e :: later → e.Exchanged (s.drawAt (before.filter Event.draws).length)

/-- A running command came from `s` to `u`, sending these events, with each of its exchanges answered and counted. -/
structure Progress (s : State) (events : List Event) (u : State) : Prop where
  reached : Reached s events (events.filter Event.draws).length u
  counts : Seq.Counts (events.filterMap Event.frame).length s.seq u.seq
  exchanged : AllExchanged s events

theorem Progress.refl (s : State) : Progress s [] s where
  reached := .refl s
  counts h := ⟨h, rfl⟩
  exchanged before e later h := by simp at h

/-- A primitive of a running command shows the observer the event `e`. -/
structure Shows (s : State) (e : Event) (u : State) : Prop where
  reached : Reached s [e] ([e].filter Event.draws).length u
  counts : Seq.Counts ([e].filterMap Event.frame).length s.seq u.seq
  exchanged : e.Exchanged s.draw

theorem AllExchanged.cons {s u : State} {e : Event} {events : List Event} (h : Shows s e u)
    (hu : AllExchanged u events) : AllExchanged s (e :: events) := by
  intro before e' later hsplit
  cases before with
  | nil =>
    cases hsplit
    exact h.exchanged
  | cons e₀ before =>
    obtain ⟨rfl, rfl⟩ := List.cons_eq_cons.1 hsplit
    have hrest := hu before e' later rfl
    rwa [h.reached.drawAt, ← List.length_append, ← List.filter_append] at hrest

theorem Progress.cons {s u t : State} {e : Event} {events : List Event} (h : Shows s e u) (hu : Progress u events t) :
    Progress s (e :: events) t where
  reached := by
    have htrans := h.reached.trans hu.reached
    rwa [← List.length_append, ← List.filter_append] at htrans
  counts := by
    have htrans := h.counts.trans hu.counts
    rwa [← List.length_append, ← List.filterMap_append] at htrans
  exchanged := .cons h hu.exchanged

theorem Progress.sequenced {s u : State} {q : Seq} {events : List Event} (hq : Seq.Counts 0 s.seq q)
    (h : Progress { s with seq := q } events u) : Progress s events u where
  reached := by simpa using (reached_sequenced q s).trans h.reached
  counts := by simpa using hq.trans h.counts
  exchanged := h.exchanged

theorem shows_exchanged {s : State} {out received : List Byte} (h : s.reply out = some received) :
    Shows s (.exchanged out received) (s.exchanged out received) where
  reached := reached_exchanged out received s
  counts := by simpa [Event.frame] using Seq.counts_exchanged s.seq (readBytes out received)
  exchanged := by
    rintro out' ⟨⟩
    exact ⟨State.answers_of_reply h, received, rfl⟩

theorem shows_timed (s : State) : Shows s (.timed s.time) s.timed where
  reached := reached_timed s
  counts := Seq.counts_tick s.seq
  exchanged := nofun

theorem reached_opened (s : State) : Reached s [.opened s.draw.granted] 1 s.opened := by
  constructor <;> simp [SameControl]

theorem shows_opened (s : State) : Shows s (.opened s.draw.granted) s.opened where
  reached := reached_opened s
  counts := Seq.counts_tick s.seq
  exchanged := nofun

theorem reached_slept (ms : Nat) (s : State) : Reached s [.slept ms] 1 (sleep ms s) := by
  constructor <;> simp [SameControl]

theorem shows_slept (ms : Nat) (s : State) : Shows s (.slept ms) (sleep ms s) where
  reached := reached_slept ms s
  counts := Seq.counts_tick s.seq
  exchanged := nofun

/-- A command's body has come from `s`, all its exchanges answered, to where it stops. -/
def Sends (start s : State) (run : Run Result) : Prop :=
  ∃ events u rest, Progress s events u ∧ Stops start u rest run

theorem Sends.cons {start s u : State} {e : Event} {run : Run Result} (h : Shows s e u) (hu : Sends start u run) :
    Sends start s run := by
  obtain ⟨events, t, rest, ht, hstop⟩ := hu
  exact ⟨_, t, rest, ht.cons h, hstop⟩

theorem Course.sends {start s : State} {lengths : List Nat} {run : Run Result} (h : Course start s lengths run) :
    Sends start s run := by
  induction h with
  | stops h => exact ⟨_, _, _, .refl _, h⟩
  | answered reply _ ih => exact ih.cons (shows_exchanged reply)
  | sequenced counts _ ih =>
    obtain ⟨events, u, rest, hu, hstop⟩ := ih
    exact ⟨_, u, rest, hu.sequenced counts, hstop⟩
  | timed _ ih => exact ih.cons (shows_timed _)
  | opened _ ih => exact ih.cons (shows_opened _)
  | slept ms _ ih => exact ih.cons (shows_slept ms _)
  | further _ ih => exact ih

/-! ### The fault a command ends in -/

/-- A fault a body stops in is the loss of the frame it was sending, or is raised with no exchange; the latter, of a
chip the spec describes, where the body began. -/
theorem Stops.of_fault {start u : State} {rest : List Nat} {run : Run Result} {f : FdcFault}
    (h : Stops start u rest run) (hu : u.fault = none) (hf : (finish run).fault = some f) :
    (∃ out, f = .transportFail out (u.seq.exchanges + 1) ∧ finish run = raise f (u.lostFrame out)) ∨
      faultCode f ≠ 4 ∧ finish run = raise f u ∧ (u.cfg.wellFormed = true → u = start) := by
  cases h with
  | lost reply =>
    cases hf
    exact .inl ⟨_, rfl, rfl⟩
  | refused other first =>
    cases hf
    exact .inr ⟨other, rfl, fun hc => (first hc).1⟩
  | delivers wire fault =>
    cases (fault.trans hu).symm.trans hf
  | left =>
    cases hu.symm.trans hf

/-- A body's course from where it is accepted. -/
theorem course_of_accept {i : Instr} (hm : i ≠ .setmode 3) (s : State) : Course s s [] (body i s) := by
  have h := course_body hm s
  by_cases hi : i = .begin
  · rw [afterOpen, if_pos hi] at h
    exact .opened h
  · rw [afterOpen, if_neg hi] at h
    exact .further h

/-- What an instruction that has a next state did: `Guard` raised, or its body ran its course. -/
theorem exec_sends {i : Instr} {s t : State} (h : exec i s = .next t) :
    Ready s ∧ ((∃ f, faultCode f ≠ 4 ∧ t = raise f s) ∨
      ∃ run, t = finish run ∧ Sends (accept i s) (accept i s) run) := by
  rw [exec_eq_command] at h
  obtain ⟨hs, ⟨f, hg, rfl⟩ | ⟨hg, rfl⟩⟩ := command_next h
  · exact ⟨hs, .inl ⟨f, guardFault_code hg, rfl⟩⟩
  · have hm : i ≠ .setmode 3 := by
      rintro rfl
      cases (guardFault_setmode_three s).symm.trans hg
    exact ⟨hs, .inr ⟨_, rfl, (course_of_accept hm _).sends⟩⟩

/-- Settles O18: TransportFail is raised where the body stops at a lost frame, all exchanges before it answered. -/
theorem transportFailEndsCommand : Obligations.TransportFailEndsCommand := by
  intro i s t out k h hf
  obtain ⟨hs, ⟨f, hcode, rfl⟩ | ⟨run, rfl, events, u, rest, hu, hstop⟩⟩ := exec_sends h
  · cases hf
    exact absurd rfl hcode
  · obtain ⟨out', hout, hend⟩ | ⟨hcode, -⟩ := hstop.of_fault (hu.reached.fault.trans hs.1) hf
    · cases hout
      obtain ⟨-, hcount⟩ := hu.counts (by simp)
      obtain ⟨hmode, hbegun⟩ := hu.reached.control
      rw [hend]
      refine ⟨⟨by simp [hmode], by simp [hbegun]⟩, rfl, rfl, events, by simp [hu.reached.wire], ?_,
        fun frame hmem => ?_⟩
      · rw [hcount]
        simp [Seq.exchanges]
      · obtain ⟨before, later, hsplit⟩ := List.append_of_mem hmem
        obtain ⟨-, received, hne⟩ := hu.exchanged before _ later hsplit frame rfl
        cases hne
    · exact absurd rfl hcode

/-- Settles O21: `Guard` raises before the body, and a body raises such a fault only where it begins. -/
theorem otherFaultsTouchNothing : Obligations.OtherFaultsTouchNothing := by
  intro i s t f hc h hf hcode
  obtain ⟨hs, ⟨f', -, rfl⟩ | ⟨run, rfl, events, u, rest, hu, hstop⟩⟩ := exec_sends h
  · cases hf
    exact ⟨raise_sameControl f s, raise_untouched f s, rfl, rfl, rfl, rfl⟩
  · obtain ⟨out, rfl, -⟩ | ⟨-, hend, hfirst⟩ := hstop.of_fault (hu.reached.fault.trans hs.1) hf
    · exact absurd rfl hcode
    · rw [hend, hfirst (hu.reached.cfg ▸ hc)]
      exact ⟨raise_accept_sameControl f i s, raise_accept_untouched f i s, rfl, rfl, rfl, rfl⟩

/-! ### Every lost exchange -/

/-- What was added to the wire from `s` to `t` is exchanged or lost as the transport answers, and a loss is the last of
it and the fault recorded. -/
def LossesRaise (s t : State) : Prop :=
  ∃ new, t.wire = s.wire ++ new ∧ ∀ before e later out, new = before ++ e :: later → e.frame = some out →
    let d := s.drawAt (before.filter Event.draws).length
    (answers d out.length = true → ∃ received, e = .exchanged out received) ∧
    (answers d out.length = false → e = .failed out ∧ later = [] ∧
      t.fault = some (.transportFail out (s.seq.exchanges + (before.filterMap Event.frame).length + 1)))

theorem AllExchanged.lossesRaise {s t : State} {events : List Event} (h : AllExchanged s events)
    (hw : t.wire = s.wire ++ events) : LossesRaise s t :=
  ⟨events, hw, fun before e later _ hsplit hframe => (h before e later hsplit).as_answered hframe⟩

theorem lossesRaise_of_wire_eq {s t : State} (h : t.wire = s.wire) : LossesRaise s t :=
  (Progress.refl s).exchanged.lossesRaise (by simp [h])

theorem Sends.lossesRaise {start s : State} {run : Run Result} (h : Sends start s run) (hs : s.seq ≠ .idle) :
    LossesRaise s (finish run) := by
  obtain ⟨events, u, rest, hu, hstop⟩ := h
  have hwire := hu.reached.wire
  cases hstop with
  | refused => exact hu.exchanged.lossesRaise hwire
  | delivers wire => exact hu.exchanged.lossesRaise (wire.trans hwire)
  | left => exact hu.exchanged.lossesRaise hwire
  | @lost lost _ reply =>
    refine ⟨events ++ [.failed lost], by simp [hwire], fun before e later out hsplit hframe => ?_⟩
    rcases List.eq_nil_or_concat later with rfl | ⟨later, last, rfl⟩
    · obtain ⟨rfl, hlast⟩ := List.append_inj' hsplit rfl
      cases hlast
      cases hframe
      obtain ⟨-, hcount⟩ := hu.counts hs
      have hno := State.not_answers_of_no_reply reply
      rw [State.draw, hu.reached.drawAt] at hno
      exact ⟨fun hyes => absurd (hno.symm.trans hyes) nofun, fun _ => ⟨rfl, rfl, by simp [hcount]⟩⟩
    · rw [List.concat_eq_append, ← List.cons_append, ← List.append_assoc] at hsplit
      obtain ⟨hevents, -⟩ := List.append_inj' hsplit rfl
      exact (hu.exchanged before e later hevents).as_answered hframe

/-- An instruction counts its exchanges from none, as its admission does. -/
theorem exec_lossesRaise {i : Instr} {s t : State} (h : exec i s = .next t) : LossesRaise s t := by
  obtain ⟨hs, ⟨f, -, rfl⟩ | ⟨run, rfl, hsends⟩⟩ := exec_sends h
  · exact lossesRaise_of_wire_eq rfl
  · have hcount : s.seq.exchanges = (accept i s).seq.exchanges := by
      rw [hs.2]
      rfl
    have hlosses := hsends.lossesRaise (by simp)
    rw [LossesRaise, ← hcount] at hlosses
    exact hlosses

/-- Only a poll is resumed, at its loop head (logs 1 and 20). -/
theorem resume_next {s t : State} (h : resume s = .next t) :
    s.seq ≠ .idle ∧ ∃ start, t = finish (pollLoop (pollBudget s.cfg) start s) := by
  unfold resume at h
  split at h
  · cases h
  · split at h
    · rename_i hseq
      split at h
      · rename_i start _
        split at h
        · cases h
          exact ⟨by rw [hseq]; nofun, start, rfl⟩
        · cases h
      · cases h
    · cases h

/-- The rest of a poll goes on counting. -/
theorem resume_lossesRaise {s t : State} (h : resume s = .next t) : LossesRaise s t := by
  obtain ⟨hseq, start, rfl⟩ := resume_next h
  exact (course_pollLoop s _ start s).sends.lossesRaise hseq

theorem takeRequest_lossesRaise {r : Request} {s t : State} (h : takeRequest r s = .next t) : LossesRaise s t := by
  unfold takeRequest at h
  split at h
  · exact exec_lossesRaise h
  · rw [rejectRequest_next h]
    exact lossesRaise_of_wire_eq rfl

/-- Settles O19: only the body of a command sends frames, and it stops at the first that is lost. -/
theorem lostFrameRaisesTransportFail : Obligations.LostFrameRaisesTransportFail := by
  rintro s t (h | ⟨i, h⟩)
  · unfold step nextStep at h
    split at h
    · cases h; exact lossesRaise_of_wire_eq rfl
    · cases h; exact lossesRaise_of_wire_eq rfl
    · cases h; exact lossesRaise_of_wire_eq rfl
    · split at h
      · cases h; exact lossesRaise_of_wire_eq rfl
      · split at h
        · have hloss := takeRequest_lossesRaise h
          exact hloss
        · exact resume_lossesRaise h
    · split at h
      · cases h; exact lossesRaise_of_wire_eq rfl
      · exact resume_lossesRaise h
  · exact exec_lossesRaise h

/-! ### Each exchange -/

theorem Reached.answersFrom {s u : State} {new : List Event} {n : Nat} (h : Reached s new n u) (k : Nat)
    (lengths : List Nat) : u.answersFrom k lengths = s.answersFrom (n + k) lengths :=
  State.answersFrom_of_drawAt h.drawAt k lengths

/-- The body that loses its exchange after `k` answered ones raises TransportFail there. -/
theorem Course.lost_at {start s : State} {lengths : List Nat} {run : Run Result} {k n : Nat}
    (h : Course start s lengths run) (hc : s.cfg.wellFormed = true) (hs : s.seq ≠ .idle) (hn : lengths[k]? = some n)
    (hbefore : s.answersFrom 0 (lengths.take k) = true) (hlost : answers (s.drawAt k) n = false) :
    ∃ t out, run = .raised t ∧ t.fault = some (.transportFail out (s.seq.exchanges + k + 1)) ∧ out.length = n := by
  induction h generalizing k with
  | stops hstop =>
    cases hstop with
    | @lost out lengths reply =>
      cases k with
      | zero =>
        cases hn
        exact ⟨_, out, rfl, rfl, rfl⟩
      | succ k =>
        obtain ⟨hyes, -⟩ := State.answersFrom_cons hbefore
        cases (State.not_answers_of_no_reply reply).symm.trans hyes
    | refused other first =>
      rw [(first hc).2] at hn
      cases hn
    | delivers => cases hn
    | left => cases hn
  | @answered s out received lengths run reply rest ih =>
    cases k with
    | zero =>
      cases hn
      cases (State.answers_of_reply reply).symm.trans hlost
    | succ k =>
      obtain ⟨-, hrest⟩ := State.answersFrom_cons hbefore
      obtain ⟨hrunning, hcount⟩ := Seq.counts_exchanged s.seq (readBytes out received) hs
      obtain ⟨t, out', hrun, hfault, hlen⟩ := ih (by simpa using hc) (by simpa using hrunning) hn
        (by rwa [State.answersFrom_exchanged]) (by rwa [State.drawAt_exchanged])
      refine ⟨t, out', hrun, ?_, hlen⟩
      rw [hfault, State.exchanged_seq, hcount, Nat.add_assoc _ 1 k, Nat.add_comm 1 k]
  | @sequenced s q _ _ counts _ ih =>
    obtain ⟨hrunning, hcount⟩ := counts hs
    rw [← Nat.add_zero s.seq.exchanges, ← hcount]
    refine ih hc hrunning hn ?_ hlost
    rwa [(reached_sequenced q s).answersFrom]
  | @timed s _ _ _ ih =>
    obtain ⟨hrunning, hcount⟩ := Seq.counts_tick s.seq hs
    rw [← Nat.add_zero s.seq.exchanges, ← hcount]
    refine ih hc hrunning hn ?_ hlost
    rwa [(reached_timed s).answersFrom]
  | opened => cases hn
  | slept => cases hn
  | further => cases hn

/-- The state of an instruction's first exchange: how many answers and exchanges there have been. -/
theorem afterOpen_accept (i : Instr) (s : State) :
    (∀ k, (afterOpen i (accept i s)).drawAt k = s.drawAt (drawnBefore i + k)) ∧
      (afterOpen i (accept i s)).seq ≠ .idle ∧ (afterOpen i (accept i s)).seq.exchanges = 0 ∧
      (afterOpen i (accept i s)).cfg = s.cfg := by
  unfold afterOpen drawnBefore
  split
  · exact ⟨State.drawAt_opened (accept i s), nofun, rfl, rfl⟩
  · exact ⟨fun k => congrArg s.drawAt (Nat.zero_add k).symm, nofun, rfl, rfl⟩

theorem exchangeLengths_accept (i : Instr) (s : State) : exchangeLengths i (accept i s) = exchangeLengths i s := by
  cases i <;> rfl

/-- `Guard` passes a framer row and BEGIN in every state, another host command after a BEGIN, but for mode code 3. -/
theorem guardFault_passes {i : Instr} {s : State} (hm : i ≠ .setmode 3)
    (hbegun : isCommand i = true → i ≠ .begin → s.begun = true) : guardFault i s = none := by
  by_cases hi : i = .begin
  · rw [hi, guardFault_begin]
  · cases hcode : i.code with
    | none => exact guardFault_framer s hcode
    | some op => exact guardFault_begun (hbegun (by rw [isCommand, hcode]; rfl) hi) hm

/-- Settles O20: the body's course meets the exchange that is not answered where its length stands. -/
theorem eachExchangeMayFail : Obligations.EachExchangeMayFail := by
  intro i s k n hs hc hm hbegun hn hbefore hlost
  obtain ⟨hdraw, hrunning, hcount, hcfg⟩ := afterOpen_accept i s
  obtain ⟨t, out, hrun, hfault, hlen⟩ := (course_body hm (accept i s)).lost_at (k := k) (n := n) (hcfg ▸ hc) hrunning
    (by rwa [exchangeLengths_accept])
    (by rwa [exchangeLengths_accept, State.answersFrom_of_drawAt hdraw]) (by rwa [hdraw])
  rw [hcount, Nat.zero_add] at hfault
  have hexec := exec_of_raised hs (guardFault_passes hm hbegun) hrun
  obtain ⟨hcontrol, hidle, houtcome, before, hwire, hindex, -⟩ :=
    transportFailEndsCommand i s t out (k + 1) hexec hfault
  exact ⟨t, out, before, hexec, hfault, houtcome, hidle, hcontrol, hwire, hlen, Nat.succ.inj hindex⟩

end Sys2Proof.Machine
end

section
/-! PROOFS. When the FDC takes an instruction, and when not (60_exceptions.md R840, R850, R860, R885). -/

namespace Sys2Proof.Machine

/-! ### Resets and recorded faults -/

theorem chipReset_reg {s : State} (hc : s.cfg.wellFormed = true) (r : Reg) :
    (chipReset s).reg r = regEntry s.cfg.chipReset r := unlisted_regAddr hc r

/-- Settles O4: a power cycle is both resets, and an empty register file reads as CHIP_RESET. -/
theorem powerCycleKeepsNothing : Obligations.PowerCycleKeepsNothing := by
  intro s rest hin hc
  refine ⟨powerCycle { s with inputs := rest }, ?_, rfl, rfl, rfl, rfl, rfl,
    chipReset_reg (s := { s with inputs := rest }) hc, rfl, rfl, rfl⟩
  simp [step, nextStep, hin]

/-- Settles O13: every instruction's admission stops. -/
theorem recordedFaultStopsEveryInstruction : Obligations.RecordedFaultStopsEveryInstruction := by
  intro i s h
  rw [exec_eq_command]
  exact command_stuck h

theorem step_of_request_stuck {s : State} {f : FdcFault} {r : Request} {rest : List HostInput} (hf : s.fault = some f)
    (hin : s.inputs = .request r :: rest) : step s = .next { s with inputs := rest } := by
  simp [step, nextStep, hin, hf]

theorem run_succ_of_next {M : Host.Core} {s t : M.State} (h : M.step s = .next t) (k : Nat) :
    M.run (k + 1) s = M.run k t := by
  rw [Host.Core.run, h]

/-- Settles O6, by induction on the requests offered: each step takes the first of them. -/
theorem requestsAfterFaultHaveNoStep : Obligations.RequestsAfterFaultHaveNoStep := by
  intro s f requests rest hf hin
  induction requests generalizing s with
  | nil =>
    rw [List.map_nil, List.nil_append] at hin
    subst hin
    rfl
  | cons r requests ih =>
    exact (run_succ_of_next (M := core) (step_of_request_stuck hf hin) requests.length).trans (ih _ hf rfl)

/-! ### Refusals of a ready FDC -/

theorem eq_begin_of_code {i : Instr} (h : i.code = some 0) : i = .begin := by
  cases i with
  | begin => rfl
  | _ => simp [Instr.code, encode] at h

/-- `Guard` refuses every host command but BEGIN and mode code 3 as NotInitialised before a BEGIN (R850, R851). -/
theorem guardFault_not_begun {i : Instr} {s : State} {op : BitVec 4} (h : s.begun = false) (hcode : i.code = some op)
    (hi : i ≠ .begin) (hm : i ≠ .setmode 3) : guardFault i s = some (.notInitialised op) := by
  have hop : op ≠ 0 := by
    rintro rfl
    exact hi (eq_begin_of_code hcode)
  simp only [guardFault, hcode, if_neg hm]
  exact if_pos ⟨hop, h⟩

/-- Settles O15: `Guard` raises before the command's body. -/
theorem notInitialisedBeforeBegin : Obligations.NotInitialisedBeforeBegin := by
  intro i s op hs hbegun hcode hi hm
  refine ⟨_, ?_, rfl, rfl, rfl, raise_sameControl _ s, raise_untouched _ s, rfl, rfl⟩
  rw [exec_eq_command]
  exact command_of_guard hs (guardFault_not_begun hbegun hcode hi hm)

/-- SETTCTHR's body encodes both operands before its first exchange, `flow` first (42_init_and_config.md R650,
log 18). -/
theorem body_settcthr_of_outOfRange {flow fhigh : F32} (s : State)
    (h : encodeTcThreshold flow = none ∨ encodeTcThreshold fhigh = none) :
    body (.settcthr flow fhigh) s =
      .raised (raise (.operandRange (if encodeTcThreshold flow = none then flow else fhigh)) s) := by
  cases hlow : encodeTcThreshold flow with
  | none => simp [body, hlow]
  | some lo =>
    have hhigh : encodeTcThreshold fhigh = none := h.resolve_left (by simp [hlow])
    simp [body, hlow, hhigh]

/-- Settles O34: the body raises at its beginning. -/
theorem settcthrRefusesOutOfRange : Obligations.SettcthrRefusesOutOfRange := by
  intro s flow fhigh hs h
  have hexec := exec_of_raised (i := .settcthr flow fhigh) hs.ready (guardFault_begun hs.begun (by simp))
    (body_settcthr_of_outOfRange (accept (.settcthr flow fhigh) s) h)
  exact ⟨_, _, hexec, rfl, rfl, rfl, raise_accept_sameControl _ _ s, raise_accept_untouched _ _ s, rfl⟩

/-! ### A running command and the host's queue -/

/-- The host has these inputs to offer. -/
def State.offered (inputs : List HostInput) (s : State) : State := { s with inputs := inputs }

/-- A piece of a command as it comes out where the host has these inputs to offer. -/
def Run.offered {α : Type} (inputs : List HostInput) : Run α → Run α
  | .done a s => .done a (s.offered inputs)
  | .raised s => .raised (s.offered inputs)
  | .waiting s => .waiting (s.offered inputs)

theorem Run.andThen_offered {α β : Type} (inputs : List HostInput) (r : Run α) {g : α → State → Run β}
    (hg : ∀ a u, g a (u.offered inputs) = (g a u).offered inputs) :
    (r.offered inputs).andThen g = (r.andThen g).offered inputs := by
  cases r with
  | done a u => exact hg a u
  | raised u => rfl
  | waiting u => rfl

theorem finish_offered (inputs : List HostInput) (r : Run Result) :
    finish (r.offered inputs) = (finish r).offered inputs := by
  cases r <;> rfl

section
variable (inputs : List HostInput)

theorem State.exchanged_offered (out received : List Byte) (s : State) :
    (s.offered inputs).exchanged out received = (s.exchanged out received).offered inputs := by
  unfold State.exchanged State.stored
  split <;> [split; skip] <;> rfl

theorem State.lostFrame_offered (out : List Byte) (s : State) :
    (s.offered inputs).lostFrame out = (s.lostFrame out).offered inputs := by
  unfold State.lostFrame State.tornBy
  split <;> [split; skip] <;> rfl

theorem exchange_offered (out : List Byte) (s : State) :
    exchange out (s.offered inputs) = (exchange out s).offered inputs := by
  have hreply : (s.offered inputs).reply out = s.reply out := rfl
  cases h : s.reply out with
  | some received =>
    rw [exchange_of_reply (hreply.trans h), exchange_of_reply h, State.exchanged_offered]
    rfl
  | none =>
    rw [exchange_of_no_reply (hreply.trans h), exchange_of_no_reply h, State.lostFrame_offered]
    rfl

theorem readReg_offered (a : Byte) (n : Nat) (s : State) :
    readReg a n (s.offered inputs) = (readReg a n s).offered inputs := by
  have hcfg : (s.offered inputs).cfg = s.cfg := rfl
  simp only [readReg, hcfg, exchange_offered]
  split
  · exact Run.andThen_offered inputs _ fun _ _ => rfl
  · rfl

theorem completeBody_offered (s : State) : completeBody (s.offered inputs) = (completeBody s).offered inputs := by
  by_cases hm : s.mode = some .continuous
  · rw [completeBody_of_continuous hm, completeBody_of_continuous (s := s.offered inputs) hm]
    rfl
  · have hm' : (s.offered inputs).mode ≠ some .continuous := hm
    have hread : memRead .cr0 1 (s.offered inputs) = (memRead .cr0 1 s).offered inputs := readReg_offered inputs _ 1 s
    rw [completeBody, if_neg hm', completeBody, if_neg hm, hread]
    exact Run.andThen_offered inputs _ fun _ _ => rfl

theorem readTcValue_offered (s : State) : readTcValue (s.offered inputs) = (readTcValue s).offered inputs := by
  have hread : readReg (regByte s.cfg .ltcbh) 3 (s.offered inputs).atValueRead =
      (readReg (regByte s.cfg .ltcbh) 3 s.atValueRead).offered inputs := readReg_offered inputs _ 3 s.atValueRead
  have hcfg : (s.offered inputs).cfg = s.cfg := rfl
  rw [readTcValue_eq, readTcValue_eq, hcfg, hread]
  exact Run.andThen_offered inputs _ fun _ _ => rfl

/-- A poll takes no notice of what the host offers. -/
theorem pollLoop_offered (n start : Nat) (s : State) :
    pollLoop n start (s.offered inputs) = (pollLoop n start s).offered inputs := by
  induction n generalizing s with
  | zero => rfl
  | succ n ih =>
    rw [pollLoop, completeBody_offered]
    refine Run.andThen_offered inputs _ fun complete u => ?_
    have helapsed : elapsed (u.offered inputs).cfg start (u.offered inputs).time = elapsed u.cfg start u.time := rfl
    simp only [helapsed]
    split
    · exact readTcValue_offered inputs u
    · split
      · rfl
      · exact ih { sleep u.cfg.pollMs u.timed with seq := (sleep u.cfg.pollMs u.timed).seq.goto pollHead }

end

/-- An instruction offered to a running FDC is refused (R860). -/
theorem exec_of_busy {i : Instr} {s : State} (hf : s.fault = none) (hseq : s.seq ≠ .idle) :
    exec i s = .refused .notIdle := by
  rw [exec_eq_command]
  simp [command, hf, hseq]

/-- With a request offered a step of a running FDC goes on with what runs. -/
theorem step_of_request_busy {s : State} {r : Request} {rest : List HostInput} (hf : s.fault = none)
    (hin : s.inputs = .request r :: rest) (hseq : s.seq ≠ .idle) : step s = resume s := by
  simp [step, nextStep, hin, hf, hseq]

/-- Settles O7: admission asks for an Idle sequencer, and the poll takes no notice of the queue. -/
theorem requestWhileBusyIsNotTaken : Obligations.RequestWhileBusyIsNotTaken := by
  refine ⟨fun i s hf hseq => exec_of_busy hf hseq, fun s r rest l start hf hin hseq hl => ?_⟩
  refine ⟨_, step_of_pollHead (s := s.offered []) hf rfl hseq hl, ?_⟩
  rw [step_of_request_busy hf hin (by rw [hseq]; nofun), resume_of_pollHead hf hseq hl]
  have hpoll := pollLoop_offered s.inputs (pollBudget s.cfg) start (s.offered [])
  exact congrArg Host.Outcome.next ((congrArg finish hpoll).trans (finish_offered s.inputs _))

end Sys2Proof.Machine
end

section
/-! PROOFS. When a one-shot conversion starts (10_state.md R140, 70_reset_and_hazards.md R914): not by the chip's own move,
and by no primitive but a write frame that addresses CR0. -/

namespace Sys2Proof.Machine

/-! ### One frame -/

/-- An event that can have started a one-shot conversion: a write of CR0 that left 1SHOT without CMODE, or a failed one. -/
def Event.Starts (c : Config) (e : Event) : Prop :=
  ∃ ab v, e.frame = some [ab, v] ∧ writtenReg ab = some (regAddr c .cr0) ∧
    (e = .failed [ab, v] ∨ oneShotSet c v = true ∧ cmodeSet c v = false)

theorem State.conv_of_moved_oneShot {s : State} (h : s.moved.conv = .oneShot) : s.conv = .oneShot :=
  chipConv_oneShot h

/-- A frame that arrives starts a one-shot conversion only as a CR0 write of 1SHOT without CMODE (R140). -/
theorem State.stored_started {s : State} {d : Draw} {out : List Byte} (hs : s.conv ≠ .oneShot)
    (h : (s.stored d out).conv = .oneShot) :
    ∃ ab v, out = [ab, v] ∧ writtenReg ab = some (regAddr s.cfg .cr0) ∧ isTrigger s.cfg v = true := by
  unfold State.stored at h
  split at h
  · rename_i ab v
    split at h
    · rename_i a ha
      dsimp only at h
      split at h
      · rename_i hcr0
        rw [convAfterWrite_started hs] at h
        split at h
        · exact ⟨ab, v, rfl, hcr0 ▸ ha, ‹_›⟩
        · exact absurd h (restConv_ne _ _)
      · exact absurd h hs
    · exact absurd h hs
  · exact absurd h hs

/-- A frame that fails starts a one-shot conversion only as a CR0 write (log 7). -/
theorem State.tornBy_started {s : State} {d : Draw} {out : List Byte} (hs : s.conv ≠ .oneShot)
    (h : (s.tornBy d out).conv = .oneShot) :
    ∃ ab v, out = [ab, v] ∧ writtenReg ab = some (regAddr s.cfg .cr0) := by
  unfold State.tornBy at h
  split at h
  · rename_i ab v
    split at h
    · rename_i a ha
      dsimp only at h
      split at h
      · rename_i hcr0
        exact ⟨ab, v, rfl, hcr0 ▸ ha⟩
      · exact absurd h hs
    · exact absurd h hs
  · exact absurd h hs

theorem State.exchanged_starts {s : State} {out received : List Byte} (hs : s.conv ≠ .oneShot)
    (h : (s.exchanged out received).conv = .oneShot) : (Event.exchanged out received).Starts s.cfg := by
  rw [State.exchanged_conv] at h
  obtain ⟨ab, v, rfl, hreg, htrigger⟩ :=
    State.stored_started (s := s.moved.pass s.draw.ms) (mt State.conv_of_moved_oneShot hs) h
  exact ⟨ab, v, rfl, hreg, .inr (by simpa [isTrigger] using htrigger)⟩

theorem State.lostFrame_starts {s : State} {out : List Byte} (hs : s.conv ≠ .oneShot)
    (h : (s.lostFrame out).conv = .oneShot) : (Event.failed out).Starts s.cfg := by
  rw [State.lostFrame_conv] at h
  obtain ⟨ab, v, rfl, hreg⟩ := State.tornBy_started (s := s.moved.pass s.draw.ms) (mt State.conv_of_moved_oneShot hs) h
  exact ⟨ab, v, rfl, hreg, .inl rfl⟩

/-! ### Any number of primitives -/

/-- The wire has grown at its end, and where a one-shot conversion has started, by an event that can have started it. -/
def StartsByWrite (s t : State) : Prop :=
  ∃ new, t.wire = s.wire ++ new ∧ (s.conv ≠ .oneShot → t.conv = .oneShot → ∃ e ∈ new, e.Starts s.cfg)

theorem StartsByWrite.of_none_started {s t : State} (hwire : s.wire <+: t.wire)
    (h : t.conv = .oneShot → s.conv = .oneShot) : StartsByWrite s t := by
  obtain ⟨new, hnew⟩ := hwire
  exact ⟨new, hnew.symm, fun hs ht => absurd (h ht) hs⟩

/-- The start falls in the one part or in the other. -/
theorem StartsByWrite.trans {s u t : State} (h₁ : StartsByWrite s u) (hcfg : u.cfg = s.cfg)
    (h₂ : StartsByWrite u t) : StartsByWrite s t := by
  obtain ⟨new₁, hwire₁, hstart₁⟩ := h₁
  obtain ⟨new₂, hwire₂, hstart₂⟩ := h₂
  refine ⟨new₁ ++ new₂, by rw [hwire₂, hwire₁, List.append_assoc], fun hs ht => ?_⟩
  by_cases hu : u.conv = .oneShot
  · obtain ⟨e, hmem, he⟩ := hstart₁ hs hu
    exact ⟨e, List.mem_append_left _ hmem, he⟩
  · obtain ⟨e, hmem, he⟩ := hstart₂ hu ht
    exact ⟨e, List.mem_append_right _ hmem, hcfg ▸ he⟩

theorem Prim.startsByWrite {s t : State} (h : Prim s t) : StartsByWrite s t := by
  have hwire := h.frame.wire
  cases h with
  | exchanged => exact ⟨_, State.exchanged_wire .., fun hs ht => ⟨_, by simp, State.exchanged_starts hs ht⟩⟩
  | lost => exact ⟨_, State.lostFrame_wire .., fun hs ht => ⟨_, by simp, State.lostFrame_starts hs ht⟩⟩
  | opened | slept => exact .of_none_started hwire State.conv_of_moved_oneShot
  | accepted | raised | delivered | timed | sequenced | mirrored | began => exact .of_none_started hwire id

theorem Prims.startsByWrite {s t : State} (h : Prims s t) : StartsByWrite s t := by
  induction h with
  | refl => exact .of_none_started (List.prefix_refl _) id
  | tail hprims hprim ih => exact ih.trans (Prims.frame hprims).cfg hprim.startsByWrite

/-! ### A step -/

/-- What a step does beside its primitives starts no one-shot conversion: an offer leaves the queue, a reset is done, or an
idle FDC waits. -/
theorem step_prims_of_none_started {s t : State} (h : step s = .next t) :
    ∃ u, Prims u t ∧ u.wire = s.wire ∧ u.cfg = s.cfg ∧ (u.conv = .oneShot → s.conv = .oneShot) := by
  unfold step nextStep at h
  split at h
  · cases h; exact ⟨_, .refl, rfl, rfl, id⟩
  · cases h; exact ⟨_, .refl, rfl, rfl, nofun⟩
  · cases h; exact ⟨_, .refl, rfl, rfl, nofun⟩
  · split at h
    · cases h; exact ⟨_, .refl, rfl, rfl, id⟩
    · split at h
      · exact ⟨_, takeRequest_prims h, rfl, rfl, id⟩
      · exact ⟨s, resume_prims h, rfl, rfl, id⟩
  · split at h
    · cases h; exact ⟨_, .refl, rfl, rfl, State.conv_of_moved_oneShot⟩
    · exact ⟨s, resume_prims h, rfl, rfl, id⟩

/-- Settles O56: a conversion that has started did so at a primitive of the step, and that was a write frame to CR0. -/
theorem oneShotStartsOnlyByWrite : Obligations.OneShotStartsOnlyByWrite := by
  intro s t h hs ht
  obtain ⟨u, hprims, hwire, hcfg, hconv⟩ := step_prims_of_none_started h
  obtain ⟨new, hnew, hstart⟩ := hprims.startsByWrite
  obtain ⟨e, hmem, ab, v, hframe, hreg, he⟩ := hstart (mt hconv hs) ht
  rw [hwire] at hnew
  rw [hcfg] at hreg he
  exact ⟨new, e, ab, v, hnew, hmem, hframe, hreg, he⟩

end Sys2Proof.Machine
end

section
/-! PROOFS. The resets of either side, the FDC that waits, and a recorded fault between resets
(70_reset_and_hazards.md R900 to R902). -/

namespace Sys2Proof.Machine

/-! ### One step -/

theorem step_of_fdcReset {s : State} {rest : List HostInput} (hin : s.inputs = .fdcReset :: rest) :
    step s = .next (fdcReset { s with inputs := rest }) := by
  simp [step, nextStep, hin]

theorem step_of_chipReset {s : State} {rest : List HostInput} (hin : s.inputs = .chipReset :: rest) :
    step s = .next (chipReset { s with inputs := rest }) := by
  simp [step, nextStep, hin]

theorem step_of_idle {s : State} (hin : s.inputs = []) (hseq : s.seq = .idle) : step s = .next (waitForHost s) := by
  simp [step, nextStep, hin, hseq]

/-- Settles O2: the step is `fdcReset`, which writes the FDC's fields only. -/
theorem fdcResetRestoresResetValues : Obligations.FdcResetRestoresResetValues :=
  ⟨⟨rfl, rfl, rfl, rfl⟩, fun _ _ hin =>
    ⟨_, step_of_fdcReset hin, rfl, rfl, rfl, rfl, ⟨rfl, rfl, rfl, rfl, rfl, rfl⟩, rfl, rfl⟩⟩

/-- Settles O3: the step is `chipReset`, and an empty register file reads as CHIP_RESET. -/
theorem chipResetRestoresRegisters : Obligations.ChipResetRestoresRegisters := by
  intro s rest hin hc
  exact ⟨_, step_of_chipReset hin, chipReset_reg (s := { s with inputs := rest }) hc, rfl, ⟨rfl, rfl⟩, rfl, rfl, rfl,
    rfl, rfl⟩

/-- Settles O9: the step is `waitForHost`, which moves the chip and the time source only. -/
theorem idleFdcWaits : Obligations.IdleFdcWaits := by
  intro s hin hseq
  exact ⟨_, step_of_idle hin hseq, ⟨rfl, rfl⟩, hseq, rfl, rfl, rfl, rfl, hin⟩

/-! ### A recorded fault -/

/-- A step with a fault recorded runs no command: but for the two resets that clear it, the fault stays, and all the step
does to the queue is to take its first entry. -/
theorem step_keeps_fault {s t : State} {f : FdcFault} (hf : s.fault = some f) (hfdc : HostInput.fdcReset ∉ s.inputs)
    (hpower : HostInput.powerCycle ∉ s.inputs) (h : step s = .next t) : t.fault = some f ∧ t.inputs ⊆ s.inputs := by
  have hresume : resume s ≠ .next t := fun hr => by simpa [hf] using (resume_ops hr).1
  unfold step nextStep at h
  split at h
  · rename_i hin
    exact absurd (by simp [hin]) hfdc
  · rename_i rest hin
    cases h
    exact ⟨hf, by simp [hin]⟩
  · rename_i hin
    exact absurd (by simp [hin]) hpower
  · rename_i r rest hin
    rw [if_pos (by simp [hf])] at h
    cases h
    exact ⟨hf, by simp [hin]⟩
  · split at h
    · cases h
      exact ⟨hf, List.Subset.refl _⟩
    · exact absurd h hresume

/-- A run of some steps is its first step and the run of the others. -/
theorem run_succ_next {M : Host.Core} {k : Nat} {s t : M.State} (h : M.run (k + 1) s = .next t) :
    ∃ u, M.step s = .next u ∧ M.run k u = .next t := by
  rw [Host.Core.run] at h
  split at h
  · exact ⟨_, ‹_›, h⟩
  · cases h
  · cases h

/-- Settles O14, by induction on the number of steps: each keeps the fault and offers nothing new. -/
theorem faultClearedOnlyByReset : Obligations.FaultClearedOnlyByReset := by
  intro n
  induction n with
  | zero =>
    intro s t f hf _ _ h
    cases h
    exact hf
  | succ n ih =>
    intro s t f hf hfdc hpower h
    obtain ⟨u, hstep, hrun⟩ := run_succ_next (M := core) h
    obtain ⟨hfault, hinputs⟩ := step_keeps_fault hf hfdc hpower hstep
    exact ih u t f hfault (mt (@hinputs _) hfdc) (mt (@hinputs _) hpower) hrun

end Sys2Proof.Machine
end

section
/-! PROOFS. The invariant of the chip and the time source: no primitive takes the register file out of its canonical form
or the count out of its width, and with no one-shot conversion pending CR0.CMODE says what the chip does (10_state.md R121,
R140, R160). -/

namespace Sys2Proof.Machine

/-! ### The conversion at rest -/

/-- A chip with no one-shot conversion pending free-runs exactly when CMODE is set (R121, R140). -/
def State.ConvRests (s : State) : Prop := s.conv ≠ .oneShot → s.conv = restConv s.cfg (s.reg .cr0)

theorem State.restConv_reg_cr0 (s : State) :
    restConv s.cfg (s.reg .cr0) = if s.cmode then .continuous else .idle := rfl

/-- At chip reset CR0 is zero but for OCFAULT0, so CMODE is clear (R121). -/
theorem cmodeSet_chipReset {c : Config} (hc : c.wellFormed = true) : cmodeSet c c.chipReset.cr0 = false := by
  obtain ⟨-, hne, -⟩ := Config.wellFormed_bits hc
  simp only [Config.wellFormed, Bool.and_eq_true, decide_eq_true_eq] at hc
  rw [cmodeSet_eq_getLsbD]
  exact hc.2 _ hne

/-- A chip just reset idles (70_reset_and_hazards.md R901, R930). -/
theorem State.convRests_of_reset {s : State} (hc : s.cfg.wellFormed = true) (hregs : s.regs = [])
    (hconv : s.conv = .idle) : s.ConvRests := by
  intro _
  have hcr0 : s.reg .cr0 = s.cfg.chipReset.cr0 := by
    rw [State.reg, hregs]
    exact unlisted_regAddr hc .cr0
  rw [hconv, hcr0, restConv, cmodeSet_chipReset hc]
  rfl

/-- A move that is no reset leaves CMODE, and so what the chip does at rest (R141). -/
theorem State.restConv_moved {s : State} (hc : s.cfg.wellFormed = true) (h : s.draw.chip ≠ .reset) :
    restConv s.moved.cfg (s.moved.reg .cr0) = restConv s.cfg (s.reg .cr0) := by
  rw [State.restConv_reg_cr0, State.restConv_reg_cr0, State.moved_cmode hc (by simpa [noReset] using h)]

/-- The chip's own move leaves it idle by a reset, at rest by the end of a one-shot conversion, else as it was. -/
theorem State.moved_convRests {s : State} (hc : s.cfg.wellFormed = true) (h : s.ConvRests) : s.moved.ConvRests := by
  rcases chipConv_cases s.cfg s.regs s.conv s.age s.draw.chip with ⟨hmove, hidle⟩ | ⟨hmove, -, hend⟩ | ⟨hmove, hsame⟩
  · refine State.convRests_of_reset hc ?_ hidle
    rw [State.moved_regs, hmove]
    rfl
  · intro _
    rw [State.restConv_moved hc hmove]
    exact hend
  · intro hne
    have hconv : s.moved.conv = s.conv := hsame
    rw [State.restConv_moved hc hmove, hconv]
    exact h (hconv ▸ hne)

/-- A write of `v` keeps the chip at rest where the conversion follows `v` if it goes to CR0, and stays else. -/
theorem State.ConvRests.written {s : State} (h : s.ConvRests) {a : Nat} {v : Byte} {conv : Conv} (age : Nat)
    (hcr0 : a = regAddr s.cfg .cr0 → conv = .oneShot ∨ conv = restConv s.cfg v)
    (hother : a ≠ regAddr s.cfg .cr0 → conv = s.conv) :
    State.ConvRests { s with regs := Mem.write s.cfg s.regs a v, conv := conv, age := age } := by
  intro hne
  dsimp only [State.reg] at hne ⊢
  by_cases ha : a = regAddr s.cfg .cr0
  · rw [ha, Mem.read_write_same]
    exact (hcr0 ha).resolve_left hne
  · rw [Mem.read_write_other s.cfg s.regs (Ne.symm ha), hother ha]
    exact h (hother ha ▸ hne)

theorem convAfterWrite_rests (c : Config) (old : Conv) (v : Byte) (d : Draw) :
    convAfterWrite c old v d = .oneShot ∨ convAfterWrite c old v d = restConv c v := by
  unfold convAfterWrite
  exact ite_eq_or_eq ..

theorem State.stored_convRests {s : State} (hc : s.cfg.wellFormed = true) (h : s.ConvRests) (d : Draw)
    (out : List Byte) : (s.stored d out).ConvRests := by
  unfold State.stored
  split
  · split
    · refine h.written _ (fun ha => ?_) (if_neg ·)
      subst ha
      rw [if_pos rfl, valueKept_of_not_owned (chipOwns_cr0 hc)]
      exact convAfterWrite_rests ..
    · exact h
  · exact h

theorem State.tornBy_convRests {s : State} (h : s.ConvRests) (d : Draw) (out : List Byte) :
    (s.tornBy d out).ConvRests := by
  unfold State.tornBy
  split
  · split
    · refine h.written _ (fun ha => ?_) (if_neg ·)
      rw [if_pos ha]
      exact (convAfterLoss_cases ..).imp_left And.left
    · exact h
  · exact h

/-! ### The chip and the time source -/

/-- The part of `StateInv` that is about the chip and the time source. -/
structure AgentsInv (s : State) : Prop where
  regs : Mem.wf s.cfg s.regs = true
  time : s.now < 2 ^ s.cfg.timeWidth
  conv : s.cfg.wellFormed = true → s.ConvRests

/-- The chip makes its move and time passes. -/
theorem AgentsInv.acted {s : State} (h : AgentsInv s) (ms : Nat) : AgentsInv (s.moved.pass ms) where
  regs := State.moved_wf h.regs
  time := Nat.mod_lt _ (Nat.two_pow_pos _)
  conv hc := State.moved_convRests hc (h.conv hc)

theorem AgentsInv.stored {s : State} (h : AgentsInv s) (d : Draw) (out : List Byte) : AgentsInv (s.stored d out) where
  regs := by simpa using State.stored_wf h.regs d out
  time := by simpa using h.time
  conv hc := by
    rw [State.stored_cfg] at hc
    exact State.stored_convRests hc (h.conv hc) d out

theorem AgentsInv.tornBy {s : State} (h : AgentsInv s) (d : Draw) (out : List Byte) : AgentsInv (s.tornBy d out) where
  regs := by simpa using State.tornBy_wf h.regs d out
  time := by simpa using h.time
  conv hc := by
    rw [State.tornBy_cfg] at hc
    exact State.tornBy_convRests (h.conv hc) d out

/-- It does not look at the FDC's fields, the queue or the wire. -/
theorem AgentsInv.of_same {s t : State} (h : AgentsInv s) (hcfg : t.cfg = s.cfg) (hregs : t.regs = s.regs)
    (hnow : t.now = s.now) (hconv : t.conv = s.conv) : AgentsInv t := by
  obtain ⟨hwf, htime, hrests⟩ := h
  unfold State.ConvRests State.reg at hrests
  constructor
  · rwa [hcfg, hregs]
  · rwa [hcfg, hnow]
  · unfold State.ConvRests State.reg
    rwa [hcfg, hregs, hconv]

theorem AgentsInv.chipReset {s : State} (h : AgentsInv s) : AgentsInv (chipReset s) where
  regs := Mem.wf_nil s.cfg
  time := h.time
  conv hc := State.convRests_of_reset hc rfl rfl

theorem Prim.agentsInv {s t : State} (hp : Prim s t) (h : AgentsInv s) : AgentsInv t := by
  cases hp with
  | exchanged => exact ((h.acted s.draw.ms).stored s.draw _).of_same rfl rfl rfl rfl
  | lost => exact ((h.acted s.draw.ms).tornBy s.draw _).of_same rfl rfl rfl rfl
  | opened => exact (h.acted s.draw.ms).of_same rfl rfl rfl rfl
  | slept ms => exact (h.acted (ms + s.draw.ms)).of_same rfl rfl rfl rfl
  | accepted | raised | delivered | timed | sequenced | mirrored | began => exact h.of_same rfl rfl rfl rfl

theorem Prims.agentsInv {s t : State} (hp : Prims s t) (h : AgentsInv s) : AgentsInv t := by
  induction hp with
  | refl => exact h
  | tail _ hprim ih => exact hprim.agentsInv ih

/-- Beside its primitives a step resets a side, lets an idle FDC wait or takes an offer from the queue. -/
theorem step_agentsInv {s t : State} (hstep : step s = .next t) (h : AgentsInv s) : AgentsInv t := by
  have htaken (rest : List HostInput) : AgentsInv { s with inputs := rest } := h.of_same rfl rfl rfl rfl
  unfold step nextStep at hstep
  split at hstep
  · cases hstep; exact h.of_same rfl rfl rfl rfl
  · cases hstep; exact (htaken _).chipReset
  · cases hstep; exact h.chipReset.of_same rfl rfl rfl rfl
  · split at hstep
    · cases hstep; exact htaken _
    · split at hstep
      · exact (takeRequest_prims hstep).agentsInv (htaken _)
      · exact (resume_prims hstep).agentsInv h
  · split at hstep
    · cases hstep; exact h.acted _
    · exact (resume_prims hstep).agentsInv h

end Sys2Proof.Machine
end

section
/-! PROOFS. Where a command leaves the sequencer: Idle, or at the loop head of READTC's poll (logs 1 and 20). -/

namespace Sys2Proof.Machine

/-! ### What stops a piece of a command -/

/-- A piece of a command that has stopped left the sequencer Idle in a fault, and left itself running only as `P` says. -/
def Run.Settles {α : Type} (P : State → Prop) : Run α → Prop
  | .done _ _ => True
  | .raised u => u.seq = .idle
  | .waiting u => P u

theorem Run.Settles.imp {α : Type} {P Q : State → Prop} {r : Run α} (h : r.Settles P) (hPQ : ∀ u, P u → Q u) :
    r.Settles Q := by
  cases r with
  | done a u => trivial
  | raised u => exact h
  | waiting u => exact hPQ u h

theorem Run.andThen_settles {α β : Type} {P : State → Prop} {r : Run α} {g : α → State → Run β} (h : r.Settles P)
    (hg : ∀ a u, (g a u).Settles P) : (r.andThen g).Settles P := by
  cases r with
  | done a u => exact hg a u
  | raised u => exact h
  | waiting u => exact h

theorem Run.Settles.finish {P : State → Prop} {r : Run Result} (h : r.Settles P) :
    (finish r).seq = .idle ∨ P (finish r) := by
  cases r with
  | done a u => exact .inl rfl
  | raised u => exact .inl h
  | waiting u => exact .inr h

section
variable {P : State → Prop}

theorem readReg_settles (a : Byte) (n : Nat) (s : State) : (readReg a n s).Settles P := by
  rcases readReg_cases a n s with ⟨-, h⟩ | ⟨-, ⟨r, -, h⟩ | ⟨-, h⟩⟩ <;> rw [h] <;> trivial

theorem writeReg_settles (a d : Byte) (s : State) : (writeReg a d s).Settles P := by
  rcases writeReg_cases a d s with ⟨-, h⟩ | ⟨-, ⟨r, -, h⟩ | ⟨-, h⟩⟩ <;> rw [h] <;> trivial

theorem rmw_settles (a m x : Byte) (s : State) : (rmw a m x s).Settles P :=
  Run.andThen_settles (readReg_settles a 1 s) fun _ u => writeReg_settles a _ u

theorem setModeBody_settles (m : Mode) (s : State) : (setModeBody m s).Settles P :=
  Run.andThen_settles (rmw_settles _ _ _ s) fun _ _ => trivial

theorem triggerBody_settles (s : State) : (triggerBody s).Settles P := by
  unfold triggerBody
  split
  · trivial
  · exact rmw_settles _ _ _ s

theorem completeBody_settles (s : State) : (completeBody s).Settles P := by
  unfold completeBody
  split
  · trivial
  · exact Run.andThen_settles (readReg_settles _ 1 s) fun _ _ => trivial

theorem readTcValue_settles (s : State) : (readTcValue s).Settles P :=
  Run.andThen_settles (readReg_settles _ 3 s.atValueRead) fun _ _ => trivial

theorem beginBody_settles (s : State) : (beginBody s).Settles P := by
  refine Run.andThen_settles trivial fun granted u => ?_
  split
  · refine Run.andThen_settles (writeReg_settles _ _ u) fun _ u => ?_
    refine Run.andThen_settles (rmw_settles _ _ _ u) fun _ u => ?_
    refine Run.andThen_settles (writeReg_settles _ _ u) fun _ u => ?_
    refine Run.andThen_settles (rmw_settles _ _ _ u) fun _ u => ?_
    exact Run.andThen_settles (setModeBody_settles _ u) fun _ _ => trivial
  · trivial

theorem writeTcThresholds_settles (lo hi : BitVec 16) (s : State) : (writeTcThresholds lo hi s).Settles P := by
  refine Run.andThen_settles (writeReg_settles _ _ s) fun _ u => ?_
  refine Run.andThen_settles (writeReg_settles _ _ u) fun _ u => ?_
  refine Run.andThen_settles (writeReg_settles _ _ u) fun _ u => ?_
  exact Run.andThen_settles (writeReg_settles _ _ u) fun _ _ => trivial

/-- No command but READTC is left running (log 1). -/
theorem body_settles {i : Instr} (hi : i ≠ .readtc) (s : State) : (body i s).Settles P := by
  cases i with
  | rd8 | rd16 | rd24 | gettctype | readfault | readcj =>
    exact Run.andThen_settles (readReg_settles _ _ s) fun _ _ => trivial
  | rmw | settctype | setnf => exact Run.andThen_settles (rmw_settles _ _ _ s) fun _ _ => trivial
  | wr8 a d => exact Run.andThen_settles (writeReg_settles a d s) fun _ _ => trivial
  | begin => exact beginBody_settles s
  | setmode m =>
    simp only [body]
    split
    · exact Run.andThen_settles (setModeBody_settles _ s) fun _ _ => trivial
    · trivial
  | getmode => trivial
  | trigger => exact Run.andThen_settles (triggerBody_settles s) fun _ _ => trivial
  | convdone => exact Run.andThen_settles (completeBody_settles s) fun _ _ => trivial
  | readtc => exact absurd rfl hi
  | settcthr flow fhigh =>
    simp only [body]
    split
    · trivial
    · split
      · trivial
      · exact writeTcThresholds_settles _ _ s
  | setcjthr low high =>
    refine Run.andThen_settles (writeReg_settles _ _ s) fun _ u => ?_
    exact Run.andThen_settles (writeReg_settles _ _ u) fun _ _ => trivial

end

/-! ### READTC's poll -/

/-- READTC runs, its sequencer at this step, and has its poll's start time. -/
def Seq.PollsAt (step : Nat) (q : Seq) : Prop := ∃ l start, q = .busy .readtc step l ∧ l.start = some start

theorem Seq.PollsAt.exchanged {k : Nat} {q : Seq} (h : q.PollsAt k) (data : List Byte) :
    (q.exchanged data).PollsAt (k + 1) := by
  obtain ⟨l, start, rfl, hl⟩ := h
  exact ⟨_, start, rfl, hl⟩

theorem Seq.PollsAt.tick {k : Nat} {q : Seq} (h : q.PollsAt k) : q.tick.PollsAt (k + 1) := by
  obtain ⟨l, start, rfl, hl⟩ := h
  exact ⟨_, start, rfl, hl⟩

theorem Seq.PollsAt.goto {k : Nat} {q : Seq} (h : q.PollsAt k) (step : Nat) : (q.goto step).PollsAt step := by
  obtain ⟨l, start, rfl, hl⟩ := h
  exact ⟨_, start, rfl, hl⟩

/-- A pass goes through a check, the reading of the time and the sleep, and back to the loop head. -/
theorem State.nextHead_pollsAt {s : State} {k : Nat} (h : s.seq.PollsAt k) (received : List Byte) :
    (s.nextHead received).seq.PollsAt pollHead := by
  simpa [State.nextHead, State.pollPass] using (h.exchanged _).tick.tick.goto pollHead

/-- From `s` READTC has come to the head of its poll's loop, with nothing delivered. -/
def LeftAtHead (s u : State) : Prop := (∃ events k, Reached s events k u) ∧ u.seq.PollsAt pollHead

theorem LeftAtHead.of_reached {s u t : State} {events : List Event} {k : Nat} (hs : Reached s events k u)
    (h : LeftAtHead u t) : LeftAtHead s t := by
  obtain ⟨⟨later, n, hu⟩, hseq⟩ := h
  exact ⟨⟨_, _, hs.trans hu⟩, hseq⟩

/-- A poll is left at its loop head, where it began there or made a pass. -/
theorem pollLoop_settles {n start k : Nat} {s : State} (hm : s.mode ≠ some .continuous) (hseq : s.seq.PollsAt k)
    (hk : n = 0 → k = pollHead) : (pollLoop n start s).Settles (LeftAtHead s) := by
  induction n generalizing s k with
  | zero => exact ⟨⟨_, _, .refl s⟩, hk rfl ▸ hseq⟩
  | succ n ih =>
    rcases check_cases start s with h | ⟨b, v, h, hv | ⟨hv, hlate | hin⟩⟩
    · rw [pollLoop_of_lost hm h]
      rfl
    · rw [pollLoop_of_complete hm h hv]
      exact readTcValue_settles _
    · rw [pollLoop_of_late hm h hv hlate]
      trivial
    · rw [pollLoop_of_pending hm h hv hin]
      have hpass := reached_nextHead [b, v] s
      exact (ih (s := s.nextHead [b, v]) (hpass.control.1 ▸ hm) (State.nextHead_pollsAt hseq _) fun _ => rfl).imp
        fun _ => .of_reached hpass

/-- READTC's start time is kept while it runs. -/
theorem State.polling_pollsAt {s : State} {k : Nat} {l : Locals} (h : s.seq = .busy .readtc k l) :
    s.polling.seq.PollsAt (k + 1) :=
  ⟨_, s.time, congrArg (Seq.started s.time) h, rfl⟩

theorem State.triggered_seq {s : State} {k : Nat} {l : Locals} (h : s.seq = .busy .readtc k l) (b v : Byte)
    (received : List Byte) : ∃ l', (s.triggered b v received).seq = .busy .readtc (k + 2) l' :=
  ⟨_, by simp only [State.triggered, State.exchanged_seq, h, Seq.exchanged]; rfl⟩

/-- READTC is left running only in OneShot. -/
theorem readTcBody_settles {s : State} {k : Nat} {l : Locals} (hseq : s.seq = .busy .readtc k l) :
    (readTcBody s).Settles fun u => s.mode = some .oneShot ∧ LeftAtHead s u := by
  by_cases hm : s.mode = some .oneShot
  · have htrigger := ne_continuous_of_oneShot hm
    cases hread : s.reply (checkFrame s.cfg) with
    | none =>
      rw [readTcBody_of_oneShot hm, triggerBody_of_lost_read htrigger hread]
      rfl
    | some received =>
      obtain ⟨b, v, rfl⟩ := State.reply_two hread
      cases hwrite : (s.exchanged (checkFrame s.cfg) [b, v]).reply (triggerFrame s.cfg v) with
      | none =>
        obtain ⟨j, hlost⟩ := triggerBody_of_lost_write htrigger hread hwrite
        rw [readTcBody_of_oneShot hm, hlost]
        rfl
      | some r =>
        rw [readTcBody_of_replies hm hread hwrite]
        have hpoll := (reached_triggered s b v r).trans (reached_polling _)
        obtain ⟨l', htriggered⟩ := State.triggered_seq hseq b v r
        exact (pollLoop_settles (hpoll.control.1 ▸ htrigger) (State.polling_pollsAt htriggered)
          fun h => absurd h (Nat.succ_ne_zero _)).imp
          fun _ hu => ⟨hm, hu.of_reached hpoll⟩
  · rw [readTcBody_of_ne_oneShot hm]
    exact readTcValue_settles s

end Sys2Proof.Machine
end

section
/-! PROOFS. The invariant of the FDC's own fields, and with that of the chip and the time source the whole invariant
(10_state.md R100 to R102, 60_exceptions.md R800). -/

namespace Sys2Proof.Machine

/-! ### `begun` and the mirror -/

/-- `begun` comes with a mode. -/
def State.BegunHasMode (s : State) : Prop := s.begun = true → s.mode.isSome = true

theorem State.BegunHasMode.of_same {s t : State} (h : s.BegunHasMode) (hst : SameControl s t) : t.BegunHasMode := by
  obtain ⟨hmode, hbegun⟩ := hst
  unfold State.BegunHasMode
  rw [hmode, hbegun]
  exact h

/-- A mode once set stays set: nothing but a reset of the FDC takes it back. -/
theorem Prims.mode_isSome {s t : State} (hp : Prims s t) (h : s.mode.isSome = true) : t.mode.isSome = true := by
  induction hp with
  | refl => exact h
  | tail _ hprim ih => cases hprim <;> simp [ih]

theorem setModeBody_mode {m : Mode} {s u : State} (h : setModeBody m s = .done () u) : u.mode = some m := by
  unfold setModeBody at h
  cases hrmw : rmwReg .cr0 (modeMask s.cfg) (modeBits s.cfg m) s <;> rw [hrmw] at h <;> cases h
  rfl

/-- What holds of the state a piece of a command ends in, and is kept by what follows, holds of where that ends. -/
theorem Run.andThen_keeps {P : State → Prop} {α β : Type} {r : Run α} {g : α → State → Run β} (h : P r.state)
    (hg : ∀ a u, r = .done a u → P u → P (g a u).state) : P (r.andThen g).state := by
  cases r with
  | done a u => exact hg a u rfl h
  | raised u => exact h
  | waiting u => exact h

theorem setModeBody_begunHasMode {s : State} (h : s.BegunHasMode) (m : Mode) :
    (setModeBody m s).state.BegunHasMode :=
  Run.andThen_keeps (h.of_same (rmw_sameControl _ _ _ s)) fun _ _ _ _ _ => rfl

/-- BEGIN sets `begun` after the mode, and clears it where the transport stays shut (42_init_and_config.md R600, R810). -/
theorem beginBody_begunHasMode {s : State} (h : s.BegunHasMode) : (beginBody s).state.BegunHasMode := by
  refine Run.andThen_keeps (h.of_same ⟨rfl, rfl⟩) fun granted u _ hu => ?_
  split
  · refine Run.andThen_keeps (hu.of_same (writeReg_sameControl _ _ u)) fun _ u _ hu => ?_
    refine Run.andThen_keeps (hu.of_same (rmw_sameControl _ _ _ u)) fun _ u _ hu => ?_
    refine Run.andThen_keeps (hu.of_same (writeReg_sameControl _ _ u)) fun _ u _ hu => ?_
    refine Run.andThen_keeps (hu.of_same (rmw_sameControl _ _ _ u)) fun _ u _ hu => ?_
    refine Run.andThen_keeps (setModeBody_begunHasMode hu _) fun _ u hmode _ _ => ?_
    rw [Run.state_done, State.setBegun_mode, setModeBody_mode hmode]
    rfl
  · exact nofun

theorem finish_sameControl (r : Run Result) : SameControl r.state (finish r) := by
  cases r <;> exact ⟨rfl, rfl⟩

theorem Ops.begunHasMode {i : Instr} {s t : State} {f : Bool} (h : Ops i s f t) (hi : i ≠ .begin)
    (hs : s.BegunHasMode) : t.BegunHasMode :=
  fun hbegun => h.prims.mode_isSome (hs (h.begun hi ▸ hbegun))

theorem exec_begunHasMode {i : Instr} {s t : State} (h : exec i s = .next t) (hs : s.BegunHasMode) :
    t.BegunHasMode := by
  by_cases hi : i = .begin
  · subst hi
    rw [exec_eq_command] at h
    rcases (command_next h).2 with ⟨f, -, rfl⟩ | ⟨-, rfl⟩
    · exact hs.of_same (raise_sameControl f s)
    · have hbody := beginBody_begunHasMode (s := accept .begin s) (hs.of_same ⟨rfl, rfl⟩)
      exact hbody.of_same (finish_sameControl _)
  · obtain ⟨_, hops⟩ := exec_ops h
    exact hops.begunHasMode hi hs

/-! ### The sequencer -/

/-- READTC's poll was left running at its loop head, in OneShot after a BEGIN, with nothing delivered or recorded. -/
structure LeftPolling (s : State) : Prop where
  fault : s.fault = none
  mode : s.mode = some .oneShot
  begun : s.begun = true
  outcome : s.outcome = none
  seq : s.seq.PollsAt pollHead

theorem LeftAtHead.leftPolling {s u : State} (h : LeftAtHead s u) (hfault : s.fault = none)
    (hmode : s.mode = some .oneShot) (hbegun : s.begun = true) (houtcome : s.outcome = none) : LeftPolling u := by
  obtain ⟨⟨events, k, hu⟩, hseq⟩ := h
  exact ⟨hu.fault.trans hfault, hu.control.1.trans hmode, hu.control.2.trans hbegun, hu.outcome.trans houtcome, hseq⟩

/-- The part of `StateInv` that is about the FDC's own fields. -/
structure ControlInv (s : State) : Prop where
  begun : s.BegunHasMode
  seq : s.seq = .idle ∨ LeftPolling s

/-- It does not look at the chip, the time source, the queue or the wire. -/
theorem ControlInv.of_same {s t : State} (h : ControlInv s) (hcontrol : SameControl s t) (hfault : t.fault = s.fault)
    (houtcome : t.outcome = s.outcome) (hseq : t.seq = s.seq) : ControlInv t where
  begun := h.begun.of_same hcontrol
  seq := h.seq.imp hseq.trans fun hp =>
    ⟨hfault.trans hp.fault, hcontrol.1.trans hp.mode, hcontrol.2.trans hp.begun, houtcome.trans hp.outcome,
      hseq ▸ hp.seq⟩

theorem ControlInv.raise {s : State} (h : ControlInv s) (f : FdcFault) : ControlInv (raise f s) where
  begun := h.begun.of_same (raise_sameControl f s)
  seq := .inl rfl

/-- An FDC just reset has neither begun nor anything to do (70_reset_and_hazards.md R900). -/
theorem fdcReset_controlInv (s : State) : ControlInv (fdcReset s) := ⟨nofun, .inl rfl⟩

/-- `Guard` admits READTC only after a BEGIN (60_exceptions.md R850). -/
theorem begun_of_guardFault_readtc {s : State} (h : guardFault .readtc s = none) : s.begun = true := by
  by_contra hbegun
  rw [guardFault_not_begun (op := 0x9) (by simpa using hbegun) rfl (by simp) (by simp)] at h
  cases h

theorem exec_controlInv {i : Instr} {s t : State} (h : exec i s = .next t) (hs : ControlInv s) : ControlInv t := by
  refine ⟨exec_begunHasMode h hs.begun, ?_⟩
  rw [exec_eq_command] at h
  obtain ⟨hready, ⟨f, -, rfl⟩ | ⟨hguard, rfl⟩⟩ := command_next h
  · exact .inl rfl
  · by_cases hi : i = .readtc
    · subst hi
      have hstop := (readTcBody_settles (s := accept .readtc s) rfl).finish
      exact hstop.imp_right fun ⟨hmode, hleft⟩ =>
        hleft.leftPolling hready.1 hmode (begun_of_guardFault_readtc hguard) rfl
    · exact (body_settles hi _).finish

theorem resume_controlInv {s t : State} (h : resume s = .next t) (hs : ControlInv s) : ControlInv t := by
  obtain ⟨-, _, hops⟩ := resume_ops h
  obtain ⟨hbusy, start, rfl⟩ := resume_next h
  have hp := hs.seq.resolve_left hbusy
  refine ⟨hops.begunHasMode (by simp) hs.begun, ?_⟩
  have hstop := (pollLoop_settles (n := pollBudget s.cfg) (start := start) (ne_continuous_of_oneShot hp.mode) hp.seq
    fun _ => rfl).finish
  exact hstop.imp_right fun hleft => hleft.leftPolling hp.fault hp.mode hp.begun hp.outcome

theorem takeRequest_controlInv {r : Request} {s t : State} (h : takeRequest r s = .next t) (hs : ControlInv s) :
    ControlInv t := by
  unfold takeRequest at h
  split at h
  · exact exec_controlInv h hs
  · rw [rejectRequest_next h]
    exact hs.raise _

theorem step_controlInv {s t : State} (hstep : step s = .next t) (h : ControlInv s) : ControlInv t := by
  have htaken (rest : List HostInput) : ControlInv { s with inputs := rest } := h.of_same ⟨rfl, rfl⟩ rfl rfl rfl
  unfold step nextStep at hstep
  split at hstep
  · cases hstep; exact fdcReset_controlInv _
  · cases hstep; exact h.of_same ⟨rfl, rfl⟩ rfl rfl rfl
  · cases hstep; exact fdcReset_controlInv _
  · split at hstep
    · cases hstep; exact htaken _
    · split at hstep
      · exact takeRequest_controlInv hstep (htaken _)
      · exact resume_controlInv hstep h
  · split at hstep
    · cases hstep; exact h.of_same ⟨rfl, rfl⟩ rfl rfl rfl
    · exact resume_controlInv hstep h

/-! ### The whole invariant -/

theorem stateInv_iff (s : State) : StateInv s ↔ AgentsInv s ∧ ControlInv s := by
  constructor
  · rintro ⟨hregs, htime, hbegun, hfault, hseq, hconv⟩
    refine ⟨⟨hregs, htime, hconv⟩, hbegun, hseq.imp_right ?_⟩
    rintro ⟨hmode, hbegun, houtcome, l, start, hbusy, hl⟩
    have hnone : s.fault = none := by
      by_contra hsome
      rw [hfault (Option.isSome_iff_ne_none.2 hsome)] at hbusy
      cases hbusy
    exact ⟨hnone, hmode, hbegun, houtcome, l, start, hbusy, hl⟩
  · rintro ⟨⟨hregs, htime, hconv⟩, hbegun, hseq⟩
    refine ⟨hregs, htime, hbegun, fun hfault => ?_, hseq.imp_right ?_, hconv⟩
    · refine hseq.resolve_right fun hp => ?_
      rw [hp.fault] at hfault
      cases hfault
    · rintro ⟨-, hmode, hbegun, houtcome, hpolls⟩
      exact ⟨hmode, hbegun, houtcome, hpolls⟩

theorem reset_agentsInv : AgentsInv State.reset where
  regs := Mem.wf_nil _
  time := Nat.two_pow_pos _
  conv hc := State.convRests_of_reset hc rfl rfl

/-- Settles O1: both sides have just been reset. -/
theorem resetHasInvariant : Obligations.ResetHasInvariant :=
  (stateInv_iff _).2 ⟨reset_agentsInv, fdcReset_controlInv State.reset⟩

/-- Settles O57: every primitive keeps the chip's part of the invariant, and a command ends with the sequencer Idle or is a
poll left at its loop head. -/
theorem stepKeepsInvariant : Obligations.StepKeepsInvariant := by
  intro s t hs hstep
  obtain ⟨hagents, hcontrol⟩ := (stateInv_iff s).1 hs
  exact (stateInv_iff t).2 ⟨step_agentsInv hstep hagents, step_controlInv hstep hcontrol⟩

end Sys2Proof.Machine
end
